-- ==== Sys2Proof/Word.lean ====
section
/-! DEFINITION. The word types of the Buffered UART transmit controller (spec 00_scope.md R10). -/

namespace Sys2Proof

/-- A byte of the Transmit Buffer, of a message, of the FIFO or of the wire (R10). -/
abbrev Byte := BitVec 8

/-- A UART register, 32 bits wide (10_state.md R34). -/
abbrev Word := BitVec 32

end Sys2Proof
end

