-- ==== Sys2Proof/Syntax.lean ====
section
/-! DEFINITION. The operations of the block: one constructor for each row of spec/opcode_table.json, in the table's
order, and the two enumerations of the encoding (30_encoding.md R64, R72). -/

namespace Sys2Proof

/-- The operations. CMD rows carry the message, REGW rows the 32-bit value written; the others have no operand. -/
inductive Instr where
  /-- INIT_ASYNC, command (42_init_async.md R115). -/
  | initAsync
  /-- ENQUEUE, command with its message (40_enqueue.md R82). -/
  | enqueue (m : List Byte)
  /-- ENQUEUE_LINE, command with its message (40_enqueue.md R83). -/
  | enqueueLine (m : List Byte)
  /-- E1_WAIT, the idle test (R86). -/
  | e1Wait
  /-- E2_LOCK (R87). -/
  | e2Lock
  /-- E3_GUARD (R88). -/
  | e3Guard
  /-- E4a_COPY, one byte of the copy (R89). -/
  | e4aCopy
  /-- E4b_TERM, the sentinel (R90). -/
  | e4bTerm
  /-- E5_CURSOR (R91). -/
  | e5Cursor
  /-- E6_UNLOCK (R92). -/
  | e6Unlock
  /-- E7a_KICK_READ (R93). -/
  | e7aKickRead
  /-- E7b_KICK_WRITE (R94). -/
  | e7bKickWrite
  /-- I1_INIT_IFLS (42_init_async.md R116). -/
  | i1InitIfls
  /-- I2_INIT_IMSC (R117). -/
  | i2InitImsc
  /-- I3_INIT_LINE (R118). -/
  | i3InitLine
  /-- DRAIN_SKIP, an invocation's outcome (41_drain.md R103). -/
  | drainSkip
  /-- DRAIN_SEND (R104). -/
  | drainSend
  /-- DRAIN_RETIRE (R105). -/
  | drainRetire
  /-- DEV_TX_EVENT (43_uart_boundary.md R132). -/
  | devTxEvent
  /-- DEV_SHIFT (R130). -/
  | devShift
  /-- HOST_RX_EVENT (R134). -/
  | hostRxEvent
  /-- DR_WRITE, a UARTDR write of `v` (R123). -/
  | drWrite (v : Word)
  /-- IFLS_WRITE, a UARTIFLS write of `v` (R128). -/
  | iflsWrite (v : Word)
  /-- IMSC_WRITE, a UARTIMSC write of `v` (R127). -/
  | imscWrite (v : Word)
  /-- ICR_TX, a UARTICR write of `v` (R125; the core's value is R76's 0x20). -/
  | icrTx (v : Word)
  deriving DecidableEq, Repr

/-- The encoding classes of 30_encoding.md R64. -/
inductive Format where
  | cmd | ph | evt | regw
  deriving DecidableEq, Repr

/-- The names of the Producer's phase codes (30_encoding.md R72). -/
inductive Phase where
  | ready | wait | lock | guard | copy | term | cursor | unlock | kickRead | kickWrite | initIfls | initImsc | initLine
  deriving DecidableEq, Repr

end Sys2Proof
end

