-- ==== Sys2Proof/WellFormed.lean ====
section
/-! DEFINITION. Which terms of `Instr` have an encoding, and which register writes the core emits. -/

namespace Sys2Proof

/-- A command's message has at most 255 bytes: `len` is one byte (30_encoding.md R65, R66). Every other term has an
encoding. -/
def Instr.wellFormed : Instr → Bool
  | .enqueue m => m.length ≤ 255
  | .enqueueLine m => m.length ≤ 255
  | .initAsync | .e1Wait | .e2Lock | .e3Guard | .e4aCopy | .e4bTerm | .e5Cursor | .e6Unlock | .e7aKickRead
  | .e7bKickWrite | .i1InitIfls | .i2InitImsc | .i3InitLine | .drainSkip | .drainSend | .drainRetire | .devTxEvent
  | .devShift | .hostRxEvent => true
  | .drWrite _ | .iflsWrite _ | .imscWrite _ | .icrTx _ => true

/-- A command's message operand (R66). -/
def Instr.message : Instr → Option (List Byte)
  | .enqueue m => some m
  | .enqueueLine m => some m
  | .initAsync | .e1Wait | .e2Lock | .e3Guard | .e4aCopy | .e4bTerm | .e5Cursor | .e6Unlock | .e7aKickRead
  | .e7bKickWrite | .i1InitIfls | .i2InitImsc | .i3InitLine | .drainSkip | .drainSend | .drainRetire | .devTxEvent
  | .devShift | .hostRxEvent => none
  | .drWrite _ | .iflsWrite _ | .imscWrite _ | .icrTx _ => none

/-- The register writes that the core emits: exactly R75's four kinds, with R75's values. A register write outside
them is a well-formed term that only another bus master can issue. -/
def Instr.coreEmits : Instr → Bool
  | .drWrite v => v.extractLsb' 8 24 == 0#24
  | .iflsWrite v => v == 0x20#32
  | .imscWrite v => v == 0x30#32
  | .icrTx v => v == 0x20#32
  | .initAsync | .enqueue _ | .enqueueLine _ | .e1Wait | .e2Lock | .e3Guard | .e4aCopy | .e4bTerm | .e5Cursor
  | .e6Unlock | .e7aKickRead | .e7bKickWrite | .i1InitIfls | .i2InitImsc | .i3InitLine | .drainSkip | .drainSend
  | .drainRetire | .devTxEvent | .devShift | .hostRxEvent => false

end Sys2Proof
end

