-- ==== Sys2Proof/Decode.lean ====
section
/-! DEFINITION. The four encodings of 30_encoding.md: decoders that are total on any bytes and reject by name, the
encoder written from the same tables, the command stream, and the opcode table's words. -/

namespace Sys2Proof

/-- Why bytes spell no operation. -/
inductive Reject where
  /-- The stream has ended between two commands: no command is left, and nothing is refused (R71). -/
  | endOfStream
  /-- The stream ends inside a header or a payload (R70), or inside a register write's six bytes. -/
  | truncatedCommand
  /-- A reserved opcode, or INIT_ASYNC with `len != 0` (R70). -/
  | reservedCommand
  /-- Phase READY names no micro-step (R72). -/
  | noMicroStep
  /-- A reserved phase code 0xD to 0xF (R73). -/
  | reservedPhase (code : BitVec 4)
  /-- An event code that is no opcode-table row's (R74). -/
  | unusedEvent (code : Byte)
  /-- A register offset that is no multiple of 4 (20_memory.md R51). -/
  | misalignedAccess
  /-- An aligned register offset with no write among R75's four kinds. -/
  | noWriteKind (off : BitVec 12)
  /-- The unused upper bits of a phase or offset byte are not zero (log 9). -/
  | reservedBits
  deriving DecidableEq, Repr

/-! ### Phase codes (R72, R73) -/

/-- The 4-bit code of a phase (R72). -/
def Phase.code : Phase → BitVec 4
  | .ready => 0x0#4 | .wait => 0x1#4 | .lock => 0x2#4 | .guard => 0x3#4 | .copy => 0x4#4 | .term => 0x5#4
  | .cursor => 0x6#4 | .unlock => 0x7#4 | .kickRead => 0x8#4 | .kickWrite => 0x9#4 | .initIfls => 0xA#4
  | .initImsc => 0xB#4 | .initLine => 0xC#4

/-- The phase of a code; none for the reserved codes 0xD to 0xF (R73). -/
def Phase.ofCode (c : BitVec 4) : Option Phase :=
  match c.toNat with
  | 0x0 => some .ready | 0x1 => some .wait | 0x2 => some .lock | 0x3 => some .guard | 0x4 => some .copy
  | 0x5 => some .term | 0x6 => some .cursor | 0x7 => some .unlock | 0x8 => some .kickRead | 0x9 => some .kickWrite
  | 0xA => some .initIfls | 0xB => some .initImsc | 0xC => some .initLine
  | _ => none

/-- The micro-step that a phase names; none for READY (R72). -/
def Phase.microStep : Phase → Option Instr
  | .ready => none | .wait => some .e1Wait | .lock => some .e2Lock | .guard => some .e3Guard | .copy => some .e4aCopy
  | .term => some .e4bTerm | .cursor => some .e5Cursor | .unlock => some .e6Unlock | .kickRead => some .e7aKickRead
  | .kickWrite => some .e7bKickWrite | .initIfls => some .i1InitIfls | .initImsc => some .i2InitImsc
  | .initLine => some .i3InitLine

/-- The micro-step that the Producer takes next, read from the phase register. -/
def decodePhase (c : BitVec 4) : Except Reject Instr :=
  match Phase.ofCode c with
  | none => .error (.reservedPhase c)
  | some p =>
    match p.microStep with
    | none => .error .noMicroStep
    | some i => .ok i

/-! ### Event codes (R74) -/

/-- The operation of an opcode-table row of format EVT. -/
def decodeEvent (c : Byte) : Except Reject Instr :=
  match c.toNat with
  | 0x81 => .ok .drainSkip
  | 0x82 => .ok .drainSend
  | 0x83 => .ok .drainRetire
  | 0x90 => .ok .devTxEvent
  | 0x91 => .ok .devShift
  | 0xA0 => .ok .hostRxEvent
  | _ => .error (.unusedEvent c)

/-- The phase whose micro-step an operation is. -/
def Instr.phase : Instr → Option Phase
  | .e1Wait => some .wait | .e2Lock => some .lock | .e3Guard => some .guard | .e4aCopy => some .copy
  | .e4bTerm => some .term | .e5Cursor => some .cursor | .e6Unlock => some .unlock | .e7aKickRead => some .kickRead
  | .e7bKickWrite => some .kickWrite | .i1InitIfls => some .initIfls | .i2InitImsc => some .initImsc
  | .i3InitLine => some .initLine
  | .initAsync | .enqueue _ | .enqueueLine _ | .drainSkip | .drainSend | .drainRetire | .devTxEvent | .devShift
  | .hostRxEvent | .drWrite _ | .iflsWrite _ | .imscWrite _ | .icrTx _ => none

/-- The code by which a recorded trace names a step (R74); a register write is no step of its own. -/
def Instr.eventCode : Instr → Option Byte
  | .initAsync => some 0x01#8 | .enqueue _ => some 0x02#8 | .enqueueLine _ => some 0x03#8
  | .e1Wait => some 0x11#8 | .e2Lock => some 0x12#8 | .e3Guard => some 0x13#8 | .e4aCopy => some 0x14#8
  | .e4bTerm => some 0x15#8 | .e5Cursor => some 0x16#8 | .e6Unlock => some 0x17#8 | .e7aKickRead => some 0x18#8
  | .e7bKickWrite => some 0x19#8 | .i1InitIfls => some 0x1A#8 | .i2InitImsc => some 0x1B#8
  | .i3InitLine => some 0x1C#8
  | .drainSkip => some 0x81#8 | .drainSend => some 0x82#8 | .drainRetire => some 0x83#8
  | .devTxEvent => some 0x90#8 | .devShift => some 0x91#8 | .hostRxEvent => some 0xA0#8
  | .drWrite _ | .iflsWrite _ | .imscWrite _ | .icrTx _ => none

/-- The codes that R74's table uses: "All other codes are unused. A trace never contains one." -/
def isEventCode (c : Byte) : Bool :=
  let n := c.toNat
  (1 ≤ n && n ≤ 3) || (0x11 ≤ n && n ≤ 0x1C) || (0x81 ≤ n && n ≤ 0x83) || n == 0x90 || n == 0x91 || n == 0xA0

/-! ### Commands (R65 to R71) -/

/-- Take exactly `n` payload bytes and build the command from them; a stream that ends first is truncated (R70). -/
def withPayload (build : List Byte → Instr) (n : Nat) (rest : List Byte) : Except Reject (Instr × List Byte) :=
  if n ≤ rest.length then .ok (build (rest.take n), rest.drop n) else .error .truncatedCommand

/-- The first command of a stream and the rest of the stream (R65 to R71). -/
def decodeCommand : List Byte → Except Reject (Instr × List Byte)
  | [] => .error .endOfStream
  | [_] => .error .truncatedCommand
  | opc :: len :: rest =>
    if opc = 0x01#8 then
      if len = 0x00#8 then .ok (.initAsync, rest) else .error .reservedCommand
    else if opc = 0x02#8 then withPayload .enqueue len.toNat rest
    else if opc = 0x03#8 then withPayload .enqueueLine len.toNat rest
    else .error .reservedCommand

/-- `decode(prog, k)`: the k-th command of a stream, or what the decoder meets first (10_state.md R28). -/
def commandAt (prog : List Byte) : Nat → Except Reject Instr
  | 0 => (decodeCommand prog).map Prod.fst
  | k + 1 =>
    match decodeCommand prog with
    | .error r => .error r
    | .ok (_, rest) => commandAt rest k

/-- At most `fuel` commands of a stream, and what ends it. -/
def decodeCommands : Nat → List Byte → List Instr × Reject
  | 0, _ => ([], .truncatedCommand)
  | fuel + 1, bs =>
    match decodeCommand bs with
    | .error r => ([], r)
    | .ok (i, rest) =>
      let tail := decodeCommands fuel rest
      (i :: tail.1, tail.2)

/-- Every byte string decodes to a sequence of commands followed by at most one refusal (R71); `endOfStream` says that
nothing is refused. A command has at least two bytes, so the fuel never runs out. -/
def decodeStream (bs : List Byte) : List Instr × Reject :=
  decodeCommands (bs.length + 1) bs

/-! ### Register writes (R75 to R79) -/

/-- The register write at an offset of the UART register space with a 32-bit value. -/
def decodeWrite (off : BitVec 12) (v : Word) : Except Reject Instr :=
  if off.toNat % 4 ≠ 0 then .error .misalignedAccess
  else if off = 0x000#12 then .ok (.drWrite v)
  else if off = 0x034#12 then .ok (.iflsWrite v)
  else if off = 0x038#12 then .ok (.imscWrite v)
  else if off = 0x044#12 then .ok (.icrTx v)
  else .error (.noWriteKind off)

/-- The 32-bit value of four bytes, the first the least significant (20_memory.md R50). -/
def wordOfBytes (b0 b1 b2 b3 : Byte) : Word := b3 ++ b2 ++ b1 ++ b0

/-- The four bytes of a value, the least significant first (R50). -/
def bytesOfWord (v : Word) : List Byte :=
  [v.extractLsb' 0 8, v.extractLsb' 8 8, v.extractLsb' 16 8, v.extractLsb' 24 8]

/-! ### Decoder and encoder over bytes -/

/-- The encoding class of an operation. -/
def Instr.format : Instr → Format
  | .initAsync | .enqueue _ | .enqueueLine _ => .cmd
  | .e1Wait | .e2Lock | .e3Guard | .e4aCopy | .e4bTerm | .e5Cursor | .e6Unlock | .e7aKickRead | .e7bKickWrite
  | .i1InitIfls | .i2InitImsc | .i3InitLine => .ph
  | .drainSkip | .drainSend | .drainRetire | .devTxEvent | .devShift | .hostRxEvent => .evt
  | .drWrite _ | .iflsWrite _ | .imscWrite _ | .icrTx _ => .regw

/-- The first operation that bytes of a format spell, and the bytes after it. A phase code and an event code take one
byte, a register write a 2-byte offset and a 4-byte value, little-endian. DESIGN CHOICE (log 9): R64 gives these three
formats widths and no byte layout. -/
def decode : Format → List Byte → Except Reject (Instr × List Byte)
  | .cmd, bs => decodeCommand bs
  | .ph, [] => .error .endOfStream
  | .ph, b :: rest =>
    if b.toNat < 16 then (decodePhase (b.setWidth 4)).map (·, rest) else .error .reservedBits
  | .evt, [] => .error .endOfStream
  | .evt, b :: rest => (decodeEvent b).map (·, rest)
  | .regw, o0 :: o1 :: v0 :: v1 :: v2 :: v3 :: rest =>
    if o1.toNat < 16 then
      (decodeWrite (o1.setWidth 4 ++ o0) (wordOfBytes v0 v1 v2 v3)).map (·, rest)
    else .error .reservedBits
  | .regw, [] => .error .endOfStream
  | .regw, _ => .error .truncatedCommand

/-- The bytes of an operation in its own format. -/
def encode : Instr → List Byte
  | .initAsync => [0x01#8, 0x00#8]
  | .enqueue m => 0x02#8 :: BitVec.ofNat 8 m.length :: m
  | .enqueueLine m => 0x03#8 :: BitVec.ofNat 8 m.length :: m
  | .e1Wait => [0x01#8] | .e2Lock => [0x02#8] | .e3Guard => [0x03#8] | .e4aCopy => [0x04#8] | .e4bTerm => [0x05#8]
  | .e5Cursor => [0x06#8] | .e6Unlock => [0x07#8] | .e7aKickRead => [0x08#8] | .e7bKickWrite => [0x09#8]
  | .i1InitIfls => [0x0A#8] | .i2InitImsc => [0x0B#8] | .i3InitLine => [0x0C#8]
  | .drainSkip => [0x81#8] | .drainSend => [0x82#8] | .drainRetire => [0x83#8]
  | .devTxEvent => [0x90#8] | .devShift => [0x91#8] | .hostRxEvent => [0xA0#8]
  | .drWrite v => 0x00#8 :: 0x00#8 :: bytesOfWord v
  | .iflsWrite v => 0x34#8 :: 0x00#8 :: bytesOfWord v
  | .imscWrite v => 0x38#8 :: 0x00#8 :: bytesOfWord v
  | .icrTx v => 0x44#8 :: 0x00#8 :: bytesOfWord v

/-- A command stream: the concatenation of its commands, with no padding (R65). -/
def encodeStream (cs : List Instr) : List Byte := cs.flatMap encode

/-! ### The opcode table's words -/

/-- Byte `k` of a number, byte 0 the least significant. -/
def byteOfNat (w k : Nat) : Byte := BitVec.ofNat 8 (w / 256 ^ k)

/-- The format of a table word of `nbits` bits: the rows of one byte are phase codes (below 0x10) and event codes, those
of two bytes register offsets (below 0x0100) and command headers. -/
def tableFormat (nbits w : Nat) : Format :=
  if nbits ≤ 4 then .ph
  else if nbits ≤ 8 then (if w < 0x10 then .ph else .evt)
  else if nbits ≤ 12 then .regw
  else if w % 0x10000 < 0x0100 then .regw
  else .cmd

/-- The bytes of a table word in a format. A header `H = {opc, len}` is one 16-bit word with its byte `opc` first in the
stream (R65); the payload bytes count on from bit 16. -/
def tableBytes : Format → Nat → List Byte
  | .ph, w => [byteOfNat w 0]
  | .evt, w => [byteOfNat w 0]
  | .regw, w => (List.range 6).map (byteOfNat w)
  | .cmd, w => byteOfNat w 1 :: byteOfNat w 0 :: (List.range (byteOfNat w 0).toNat).map fun k => byteOfNat w (2 + k)

/-- The operation that the decoder reads from a word numbered as spec/opcode_table.json numbers it. -/
def decodeTableWord (nbits w : Nat) : Option Instr :=
  let f := tableFormat nbits w
  match decode f (tableBytes f w) with
  | .ok (i, _) => some i
  | .error _ => none

end Sys2Proof
end

