-- ==== Sys2Proof/Config.lean ====
section
/-! DEFINITION. The implementation parameters of 00_scope.md R6: the values that this hardware fixes, the parameters
that stay arguments of a run (`Params`, held in the state), and the free schedule (93_implementation_defined.md U24). -/

namespace Sys2Proof.Config

/-- `C`, the capacity of the Transmit Buffer in bytes (R6: 64). -/
abbrev capacity : Nat := 64

/-- `SENTINEL`, the terminator byte (R6: 0x00). -/
abbrev sentinel : Byte := 0x00#8

/-- `CURSOR_W`, the width of `cursor` and of the copy index `i`: the least w with 2^w > C (R6: 7). -/
abbrev cursorWidth : Nat := 7

/-- `TX_FIFO_DEPTH` (R6: 16). -/
abbrev txFifoDepth : Nat := 16

/-- `TX_EVENT_MODE`: which TX events the device may raise (R6, 43_uart_boundary.md R132). -/
inductive TxEventMode where
  /-- Exactly one event for each accepted UARTDR write. -/
  | owed
  /-- Spurious and repeated events too, whenever the FIFO has room. -/
  | any
  deriving DecidableEq, Repr

/-- The parameters that R6 marks OPEN, or that are launch premises. They are plain data of the state that no step
writes, so a statement about every state holds for every value of them. -/
structure Params where
  /-- `UART_BASE` (OPEN). DESIGN CHOICE (log 21): a bus address, and so the base, is 32 bits wide. -/
  uartBase : Word
  /-- `UART_IRQ_LINE` (OPEN). -/
  uartIrqLine : Nat
  /-- `TX_EVENT_MODE` (OPEN). -/
  txEventMode : TxEventMode
  /-- `RX_INVOKES_DRAIN` (OPEN). -/
  rxInvokesDrain : Bool
  /-- `COPY_STOPS_AT_ZERO` (`true` on this hardware). -/
  copyStopsAtZero : Bool
  /-- `rxTraffic`, the launch premise that the Host sends bytes to the receiver (OPEN). -/
  rxTraffic : Bool
  deriving DecidableEq, Repr

/-- The parameters of the state after reset. `copyStopsAtZero` is the spec's value.
DESIGN CHOICE (log 6): the OPEN ones take the values that the spec names as reference or conservative. -/
def Params.reference : Params where
  uartBase := 0x20201000#32
  uartIrqLine := 57
  txEventMode := .owed
  rxInvokesDrain := true
  copyStopsAtZero := true
  rxTraffic := false

/-- The agents' kinds of step that the scheduler chooses among (00_scope.md R8). -/
inductive AgentStep where
  /-- The Host issues the command at `pcmd` (40_enqueue.md R84). -/
  | host
  /-- The Producer takes the micro-step that `ph` names (10_state.md R26). -/
  | producer
  /-- One Drain invocation (41_drain.md R101). -/
  | drain
  /-- The device raises a TX event (43_uart_boundary.md R132). -/
  | txEvent
  /-- The device shifts a byte onto the wire (43_uart_boundary.md R130). -/
  | shift
  /-- The Host's receive traffic raises RXRIS (43_uart_boundary.md R134). -/
  | rxEvent
  deriving DecidableEq, Repr, Inhabited

/-- The free schedule: which agent moves at the n-th turn that no entry of `State.turns` decides. It has no body, so
nothing can be proved of its values: "the scheduler picks any enabled step" (U24). DESIGN CHOICE (log 1). -/
opaque freeStep : Nat → AgentStep

end Sys2Proof.Config
end

