-- ==== Sys2Proof/Machine/State.lean ====
section
/-! DEFINITION. The state vector of 10_state.md R17 as plain data, the recorded faults and refusals, and the state
after reset (70_reset_and_hazards.md R161). -/

namespace Sys2Proof.Machine

open Sys2Proof.Config

/-- Which step issued a UARTDR write; a part of the info that `TxOverflow` records (60_exceptions.md R142). -/
inductive Writer where
  /-- The Producer, whose only UARTDR write is E7b's (40_enqueue.md R94). -/
  | producer
  /-- The Drain, whose only UARTDR write is SEND's (41_drain.md R104). -/
  | drain
  /-- A register write standing alone on the bus: no step of the core (log 14). -/
  | bus
  deriving DecidableEq, Repr

/-- The faults. The first two are the spec's and are recorded in `State.faults`, after which the machine goes on; the
last stops the machine. -/
inductive Fault where
  /-- Recorded by a UARTDR write, from E7b, SEND or the bus, that finds the FIFO full; with the byte and the writer
  (43_uart_boundary.md R124). Safe: the byte is not queued and the fault refutes every claim. -/
  | txOverflow (byte : Byte) (writer : Writer)
  /-- Recorded by a Producer turn with `ph` at a reserved code (30_encoding.md R73). Safe: no Producer step is taken. -/
  | phaseCorrupt (code : BitVec 4)
  /-- Raised as a stop by a buffer write at an offset outside `0..C-1`, which E4b makes only where `i >= C`. Safe: no
  reachable state does it (40_enqueue.md R97; log 8). -/
  | bufferOffset (offset : Nat)
  deriving DecidableEq, Repr

/-- The refusals. The five of 60_exceptions.md R143, and the refused launch, are recorded in `State.refusals`, after which
the machine goes on; the others stop the machine. -/
inductive Refusal where
  /-- Answered by `exec` for an instruction without a meaning; no arm does so. Safe: the machine stops. -/
  | notModelled (mnemonic : String)
  /-- Recorded by a Host turn at a reserved header (30_encoding.md R70). Safe: `pcmd` stays. -/
  | reservedCommand
  /-- Recorded by a Host turn where the stream ends inside a command (R70). Safe: `pcmd` stays. -/
  | truncatedCommand
  /-- Recorded by a command of a second producer (40_enqueue.md R84). Safe: the command has no effect. -/
  | secondProducer
  /-- Recorded by a UARTIFLS write with a reserved trigger code, and by a TX event while UARTIFLS holds one
  (43_uart_boundary.md R128, R133; log 11). Safe: nothing is written. -/
  | reservedIfls
  /-- Recorded by a misaligned or sub-word access to the UART register space (20_memory.md R51). Safe: no effect. -/
  | misalignedAccess
  /-- Recorded by every turn of a launch with UARTLCR_H.FEN = 0 or the transmitter disabled (43_uart_boundary.md R137,
  93_implementation_defined.md U27; log 19). Safe: no step of any agent is taken. -/
  | refusedLaunch
  /-- Answered by a write to a UART register for which the spec gives no write effect (log 15). Safe: a stop. -/
  | noWriteEffect (off : Word)
  /-- Answered by a write outside the UART register block, which belongs to the platform (20_memory.md R55; log 15).
  Safe: a stop. -/
  | outsideUart (addr : Word)
  deriving DecidableEq, Repr

/-- Who moves next: an agent, or one of the two inputs that no reference run has (log 14). -/
inductive Turn where
  /-- An agent of 00_scope.md R8 takes its step. -/
  | agent (a : AgentStep)
  /-- `MemWrite(addr, n, v)` standing alone on the bus: another writer of the UART registers (R139, R174). -/
  | bus (addr : Word) (n : Nat) (v : Word)
  /-- A second producer issues a command (40_enqueue.md R84). -/
  | secondProducer
  deriving DecidableEq, Repr

/-- Byte storage: (offset, byte) pairs in rising order, none of them holding the byte that an unlisted offset reads as
(`Memory.wf`, Machine/Ops.lean). -/
abbrev Memory := List Host.Cell

/-- The state vector (10_state.md R17). `turns`, `tick` and `trace` are the model's own fields. -/
@[ext]
structure State where
  /-- The Transmit Buffer `bytes[0..C-1]` (R19). -/
  bytes : Memory
  /-- `cursor`, the index of the next byte the Drain sends (R20). -/
  cursor : BitVec cursorWidth
  /-- `locked` (R21). -/
  locked : Bool
  /-- `msg`, the message of the enqueue in progress (R22). -/
  msg : List Byte
  /-- `i`, the copy index (R23). -/
  i : BitVec cursorWidth
  /-- `t`, the kick latch (R24). -/
  t : Byte
  /-- `tail`, the enqueue of CR LF is still owed (R25). -/
  tail : Bool
  /-- `ph`, the phase register (R26). -/
  ph : BitVec 4
  /-- `prog`, the launched command stream (R28). -/
  prog : List Byte
  /-- `pcmd`, the number of commands accepted (R27, R28). -/
  pcmd : Nat
  /-- `txFifo`, oldest byte first (R29). -/
  txFifo : List Byte
  /-- `wire`, oldest byte first (R30). -/
  wire : List Byte
  /-- `owed`, the TX events still owed (R31). -/
  owed : Nat
  /-- UARTIFLS (R38). -/
  uartIFLS : Word
  /-- UARTIMSC (R39). -/
  uartIMSC : Word
  /-- UARTRIS (R39). -/
  uartRIS : Word
  /-- UARTCR (R37). -/
  uartCR : Word
  /-- UARTLCR_H (R37). -/
  uartLCRH : Word
  /-- UARTIBRD (R37). -/
  uartIBRD : Word
  /-- UARTFBRD (R37). -/
  uartFBRD : Word
  /-- The UARTFR bits that the FIFO level does not decide (R36). -/
  uartFRIn : Word
  /-- `cpuIrqEn` (R32). -/
  cpuIrqEn : Bool
  /-- `lineEn` (R33). -/
  lineEn : Bool
  /-- `faults`, the recorded faults, none twice (R43). -/
  faults : List Fault
  /-- The recorded refusals, none twice; the spec's mark `refused` is that there is one (R43; log 4). -/
  refusals : List Refusal
  /-- The launch parameters (00_scope.md R6); no step writes them. -/
  params : Params
  /-- The schedule: who moves at the coming turns (log 1). -/
  turns : List Turn
  /-- How many turns the free schedule has decided (log 1). -/
  tick : Nat
  /-- The recorded trace of event codes, oldest first (30_encoding.md R74; log 12). -/
  trace : List Byte
  deriving DecidableEq, Repr

/-- The outcome of a meaning. -/
abbrev Result := Host.Outcome State Fault Refusal

/-- The machine right after reset (R161), with no program launched (log 10). The unspecified bits are those of log 5
(buffer cells), log 6 (parameters) and log 7 (UARTCR, UARTLCR_H, the divisors, UARTFR's pins). -/
def State.reset : State where
  bytes := []
  cursor := 0
  locked := false
  msg := []
  i := 0
  t := 0
  tail := false
  ph := 0
  prog := []
  pcmd := 0
  txFifo := []
  wire := []
  owed := 0
  uartIFLS := 0x12
  uartIMSC := 0
  uartRIS := 0
  uartCR := 0x0301
  uartLCRH := 0x70
  uartIBRD := 0
  uartFBRD := 0
  uartFRIn := 0x10
  cpuIrqEn := true
  lineEn := false
  faults := []
  refusals := []
  params := Params.reference
  turns := []
  tick := 0
  trace := []

end Sys2Proof.Machine
end

