-- ==== Sys2Proof/Machine/Flags.lean ====
section
/-! DEFINITION. The flags of 10_state.md R44, the views computed from the state (UARTMIS, UARTFR, TX_TRIG, the buffer
phase), the sticky marks, and the dispatch condition of 60_exceptions.md R148. -/

namespace Sys2Proof.Machine

open Sys2Proof.Config

/-! ### Register fields -/

/-- Replace the bits of `old` under `mask` by those of `v`. -/
def insertUnder (mask old v : Word) : Word := (old &&& ~~~mask) ||| (v &&& mask)

/-- The eleven cause bits [10:0] of UARTIMSC, UARTRIS, UARTMIS and UARTICR (10_state.md R39). -/
def causeMask : Word := 0x7FF#32

/-- The transmit cause, bit 5 (R39). -/
def txCause : Word := 0x20#32

/-- The receive cause, bit 4 (R39). -/
def rxCause : Word := 0x10#32

/-- UARTRIS.TXRIS. -/
def State.txRIS (s : State) : Bool := s.uartRIS.getLsbD 5

/-- UARTRIS.RXRIS. -/
def State.rxRIS (s : State) : Bool := s.uartRIS.getLsbD 4

/-- `UARTMIS = UARTRIS & UARTIMSC` (43_uart_boundary.md R129). -/
def State.uartMIS (s : State) : Word := s.uartRIS &&& s.uartIMSC

/-- The device's interrupt request (R136). -/
def State.uartIrq (s : State) : Bool := s.uartMIS != 0

/-- UARTCR.UARTEN, bit 0 (10_state.md R37). -/
def State.uartEn (s : State) : Bool := s.uartCR.getLsbD 0

/-- UARTCR.TXE, bit 8 (R37). -/
def State.txEn (s : State) : Bool := s.uartCR.getLsbD 8

/-- UARTLCR_H.FEN, bit 4 (R37). -/
def State.fifoEn (s : State) : Bool := s.uartLCRH.getLsbD 4

/-- The device preconditions of 43_uart_boundary.md R137: the FIFOs and the transmitter are enabled. A launch without them
is refused (93_implementation_defined.md U27; log 19). -/
def State.uartInitialised (s : State) : Bool := s.fifoEn && s.uartEn && s.txEn

/-- UARTFR (R36): TXFF (bit 5) and TXFE (bit 7) follow the FIFO level, the other bits are the stored ones. -/
def State.uartFR (s : State) : Word :=
  insertUnder 0xA0#32 s.uartFRIn
    ((if s.txFifo.length = txFifoDepth then 0x20#32 else 0) ||| (if s.txFifo.length = 0 then 0x80#32 else 0))

/-- The level of a trigger code for a 16-entry FIFO; none for the reserved codes (43_uart_boundary.md R133). -/
def triggerLevel (sel : BitVec 3) : Option Nat :=
  match sel.toNat with
  | 0 => some (txFifoDepth / 8)
  | 1 => some (txFifoDepth / 4)
  | 2 => some (txFifoDepth / 2)
  | 3 => some (3 * txFifoDepth / 4)
  | 4 => some (7 * txFifoDepth / 8)
  | _ => none

/-- `TX_TRIG`, from TXIFLSEL = UARTIFLS[2:0] (R133). -/
def State.txTrig (s : State) : Option Nat := triggerLevel (s.uartIFLS.extractLsb' 0 3)

/-- `RX_TRIG`, from RXIFLSEL = UARTIFLS[5:3]; no core rule uses it (00_scope.md R6, 43_uart_boundary.md R135). -/
def State.rxTrig (s : State) : Option Nat := triggerLevel (s.uartIFLS.extractLsb' 3 3)

/-! ### Raising and clearing causes -/

/-- A TX event sets the transmit cause (R132). -/
def State.setTxRIS (s : State) : State := { s with uartRIS := s.uartRIS ||| txCause }

/-- Receive traffic sets the receive cause (R134). -/
def State.setRxRIS (s : State) : State := { s with uartRIS := s.uartRIS ||| rxCause }

/-! ### Marks (10_state.md R43) -/

/-- Record a fault (R12, R142): the marks are a set, and none is ever cleared. -/
def State.raise (f : Fault) (s : State) : State :=
  { s with faults := if s.faults.contains f then s.faults else s.faults ++ [f] }

/-- Record a refusal (R12, R143). -/
def State.refuse (r : Refusal) (s : State) : State :=
  { s with refusals := if s.refusals.contains r then s.refusals else s.refusals ++ [r] }

/-- The mark `refused` (R43). -/
def State.refused (s : State) : Bool := !s.refusals.isEmpty

/-! ### Phase and dispatch -/

/-- `ph == p`. -/
def State.atPhase (p : Phase) (s : State) : Bool := s.ph == p.code

/-- The span in which the Producer holds the lock: from after E2 to E6 (40_enqueue.md R100). -/
def State.loading (s : State) : Bool :=
  s.atPhase .guard || s.atPhase .copy || s.atPhase .term || s.atPhase .cursor || s.atPhase .unlock

/-- The dispatch condition (60_exceptions.md R148). -/
def State.dispatchEnabled (s : State) : Bool :=
  s.lineEn && s.cpuIrqEn && (s.uartMIS.getLsbD 5 || (s.params.rxInvokesDrain && s.uartMIS.getLsbD 4))

end Sys2Proof.Machine
end

