-- ==== Sys2Proof/Machine/Ops.lean ====
section
/-! DEFINITION. The named operations that the meanings share: the Transmit Buffer's storage, the phase register, the
UART register writes (43_uart_boundary.md R123 to R128), interrupt entry and return (60_exceptions.md R152, R154). -/

namespace Sys2Proof.Machine

open Sys2Proof.Config

/-! ### Transmit Buffer storage (20_memory.md R47) -/

/-- What an unlisted offset reads as. For offset 0 it is the spec's reset value; for the others DESIGN CHOICE (log 5). -/
def Memory.unlisted : Byte := 0x00#8

/-- Read one byte. -/
def Memory.read : Memory → Nat → Byte
  | [], _ => Memory.unlisted
  | (a, b) :: m, k => if a = k then b else Memory.read m k

/-- Write one byte, keeping the canonical form. -/
def Memory.write : Memory → Nat → Byte → Memory
  | [], k, v => if v = Memory.unlisted then [] else [(k, v)]
  | (a, b) :: m, k, v =>
    if a < k then (a, b) :: Memory.write m k v
    else
      let rest := if a = k then m else (a, b) :: m
      if v = Memory.unlisted then rest else (k, v) :: rest

/-- The canonical form: offsets strictly rising and inside the buffer, no entry holding the unlisted byte. -/
def Memory.wf (m : Memory) : Bool :=
  decide (m.Pairwise fun x y => x.1 < y.1) && m.all fun c => decide (c.1 < capacity) && c.2 != Memory.unlisted

/-- `bytes[k]` (00_scope.md R12). -/
def State.byteAt (s : State) (k : Nat) : Byte := Memory.read s.bytes k

/-- `bytes[k] <- v` for an offset inside the buffer (R12). -/
def State.setByte (k : Nat) (v : Byte) (s : State) : State := { s with bytes := Memory.write s.bytes k v }

/-! ### Sequencing -/

/-- Go on after a next state; a stop stays a stop. -/
def thenDo (r : Result) (f : State → Result) : Result :=
  match r with
  | .next s => f s
  | .fault e => .fault e
  | .refused e => .refused e

/-- A rule's `require`: a step that is not enabled is not taken, and the state stays (log 2). -/
def require (g : Bool) (body : State → Result) (s : State) : Result :=
  if g then body s else .next s

/-- `bytes[k] <- v`; an offset outside the buffer stops the machine (40_enqueue.md R97; log 8). -/
def storeByte (k : Nat) (v : Byte) (s : State) : Result :=
  if k < capacity then .next (s.setByte k v) else .fault (.bufferOffset k)

/-- `ph <- p` (R12). -/
def State.setPh (p : Phase) (s : State) : State := { s with ph := p.code }

/-! ### UART register writes -/

/-- UARTDR write (R123): push `v[7:0]` and owe a TX event, or record `TxOverflow` when the FIFO is full (R124). -/
def State.writeDR (w : Writer) (v : Word) (s : State) : State :=
  if s.txFifo.length = txFifoDepth then s.raise (.txOverflow (v.extractLsb' 0 8) w)
  else { s with txFifo := s.txFifo ++ [v.extractLsb' 0 8], owed := s.owed + 1 }

/-- UARTICR write (R125): clear the causes whose `v` bit is 1; every other bit of UARTRIS stays (log 20). -/
def State.writeICR (v : Word) (s : State) : State := { s with uartRIS := s.uartRIS &&& ~~~(v &&& causeMask) }

/-- UARTIMSC write (R127): bits [10:0] take `v[10:0]`. "The register is overwritten" (92_eei_decisions.md D14), so the
reserved bits become 0, whatever the earlier value (42_init_async.md R117, R121; log 20 for a bus write). -/
def State.writeIMSC (v : Word) (s : State) : State := { s with uartIMSC := v &&& causeMask }

/-- UARTIFLS write (R128): bits [5:0] take `v[5:0]`, and the reserved bits become 0, whatever the earlier value
(42_init_async.md R121; log 20 for a bus write). A reserved code in either field is refused. -/
def State.writeIFLS (v : Word) (s : State) : State :=
  if (triggerLevel (v.extractLsb' 0 3)).isSome && (triggerLevel (v.extractLsb' 3 3)).isSome then
    { s with uartIFLS := v &&& 0x3F#32 }
  else s.refuse .reservedIfls

/-- The size of the UART register block, `0x000 .. 0x047` (20_memory.md R55). -/
def uartBlockSize : Nat := 0x48

/-- The effect of a 4-byte write at an aligned offset of the UART block. -/
def writeRegister (w : Writer) (off v : Word) (s : State) : Result :=
  if off = 0x000#32 then .next (s.writeDR w v)
  else if off = 0x034#32 then .next (s.writeIFLS v)
  else if off = 0x038#32 then .next (s.writeIMSC v)
  else if off = 0x044#32 then .next (s.writeICR v)
  else .refused (.noWriteEffect off)

/-- `MemWrite(addr, n, v)` (00_scope.md R12, 20_memory.md R48, R51, R55). DESIGN CHOICE: the offset is
`addr - UART_BASE` modulo 2^32 (log 21), and an access belongs to the block where its first byte does (log 22). -/
def memWrite (w : Writer) (addr : Word) (n : Nat) (v : Word) (s : State) : Result :=
  let off := addr - s.params.uartBase
  if uartBlockSize ≤ off.toNat then .refused (.outsideUart addr)
  else if n ≠ 4 ∨ off.toNat % 4 ≠ 0 then .next (s.refuse .misalignedAccess)
  else writeRegister w off v s

/-- The readable registers by offset (10_state.md R34 to R39). None for UARTDR, whose read pops a receive FIFO that the
model does not keep, and for the write-only UARTICR. The core reads no register (43_uart_boundary.md R140). -/
def State.readRegister (s : State) (off : Word) : Option Word :=
  if off = 0x018#32 then some s.uartFR
  else if off = 0x024#32 then some s.uartIBRD
  else if off = 0x028#32 then some s.uartFBRD
  else if off = 0x02C#32 then some s.uartLCRH
  else if off = 0x030#32 then some s.uartCR
  else if off = 0x034#32 then some s.uartIFLS
  else if off = 0x038#32 then some s.uartIMSC
  else if off = 0x03C#32 then some s.uartRIS
  else if off = 0x040#32 then some s.uartMIS
  else none

/-- `EnableLine(n)`, the interrupt controller's primitive; its only modelled effect is `lineEn <- 1` (R12, R118). -/
def enableLine (_line : Nat) (s : State) : State := { s with lineEn := true }

/-! ### Interrupt entry and return -/

/-- Taking the interrupt (R152): "entry saves nothing and changes nothing of the block's state". Its condition is
`State.dispatchEnabled` (R148), which the step checks. -/
def enterInterrupt (s : State) : State := s

/-- Return from the interrupt (R154): nothing is restored, and the Producer goes on at the step that `ph` names. -/
def returnFromInterrupt (s : State) : State := s

/-- The Drain's step 1, ACK (41_drain.md R102): `MemWrite(UART_BASE + 0x044, 4, 0x20)`. -/
def ack (s : State) : Result := memWrite .drain (s.params.uartBase + 0x044#32) 4 txCause s

/-- One Drain invocation (R101): entry, ACK first, then the outcome's own steps, then return; one atomic step. -/
def drainInvocation (outcome : State → Result) (s : State) : Result :=
  thenDo (ack (enterInterrupt s)) fun s1 => thenDo (outcome s1) fun s2 => .next (returnFromInterrupt s2)

end Sys2Proof.Machine
end

