-- ==== Sys2Proof/Machine/Operands.lean ====
section
/-! DEFINITION. The operand forms: the message operand and its copy (30_encoding.md R66, 40_enqueue.md R89, R95), the
register-write values (30_encoding.md R76 to R79), the command at `pcmd`, the Drain's selection, and the conditions under
which each step is enabled. -/

namespace Sys2Proof.Machine

open Sys2Proof.Config

/-- `"\r\n"`, the second half of ENQUEUE_LINE (40_enqueue.md R94). -/
def crlf : List Byte := [0x0D#8, 0x0A#8]

/-- E4a's condition for copying one more byte (R89). -/
def State.copyContinues (s : State) : Bool :=
  decide (s.i.toNat < capacity - 1) && decide (s.i.toNat < s.msg.length)
    && !(s.params.copyStopsAtZero && s.msg.getD s.i.toNat 0 == sentinel)

/-- The part of a message that the copy stores (R95 with `copyStopsAtZero`, R96): at most `C-1` bytes, ending before the
first 0x00 when `stops`. -/
def storedPart (stops : Bool) (m : List Byte) : List Byte :=
  let first := m.take (capacity - 1)
  if stops then first.takeWhile (· != sentinel) else first

/-- `zext_32(b)`, the value of a DR_WRITE (30_encoding.md R77). -/
def drValue (b : Byte) : Word := b.setWidth 32

/-- The value that I1 writes: RXIFLSEL = 0b100, TXIFLSEL = 0b000 (30_encoding.md R78). -/
def iflsValue : Word := 0x20#32

/-- The value that I2 writes: TXIM = RXIM = 1 (30_encoding.md R79). -/
def imscValue : Word := 0x30#32

/-- `decode(prog, pcmd)` (10_state.md R28). -/
def State.nextCommand (s : State) : Except Reject Instr := commandAt s.prog s.pcmd

/-- A command's `require`: `ph == READY` and the command at `pcmd` is this one (40_enqueue.md R82). -/
def State.accepts (i : Instr) (s : State) : Bool := s.atPhase .ready && decide (s.nextCommand = .ok i)

/-- The outcomes of a Drain invocation (41_drain.md R101). -/
inductive DrainOutcome where
  | skip | send | retire
  deriving DecidableEq, Repr

/-- R101's selection: `bytes[cursor]` is read only where `cursor < C`. -/
def State.drainOutcome (s : State) : DrainOutcome :=
  if s.locked then .skip
  else if s.cursor.toNat < capacity ∧ s.byteAt s.cursor.toNat ≠ sentinel then .send
  else .retire

/-- The operation of an outcome. -/
def DrainOutcome.instr : DrainOutcome → Instr
  | .skip => .drainSkip
  | .send => .drainSend
  | .retire => .drainRetire

/-- Armed (10_state.md R41): the span from after E2 to the moment before E7b. -/
def State.armed (s : State) : Bool := s.loading || s.atPhase .kickRead || s.atPhase .kickWrite

/-- The three states of the buffer (R41). -/
inductive BufferPhase where
  | idle | armed | draining
  deriving DecidableEq, Repr

/-- The buffer's state as a function of the machine's (R41): exactly one holds. -/
def State.bufferPhase (s : State) : BufferPhase :=
  if s.armed then .armed
  else if s.byteAt 0 = sentinel ∧ s.cursor = 0 then .idle
  else .draining

/-- TX_EVENT's `require` at a trigger level (43_uart_boundary.md R132). -/
def State.txEventEnabled (s : State) (trig : Nat) : Bool :=
  (match s.params.txEventMode with
    | .owed => decide (0 < s.owed)
    | .any => true) && decide (s.txFifo.length ≤ trig)

/-- SHIFT's `require` (R130). -/
def State.shiftEnabled (s : State) : Bool := !s.txFifo.isEmpty && s.uartEn && s.txEn

end Sys2Proof.Machine
end

