-- ==== Sys2Proof/Machine/Command.lean ====
section
/-! DEFINITION. The Host's commands (40_enqueue.md R82 to R84, 42_init_async.md R115). Their acceptance touches no shared
state. -/

namespace Sys2Proof.Machine

/-- INIT_ASYNC (R115): `pcmd <- pcmd + 1; ph <- INIT_IFLS`. -/
def execInitAsync (s : State) : Result :=
  require (s.accepts .initAsync) (fun s => .next { s.setPh .initIfls with pcmd := s.pcmd + 1 }) s

/-- ENQUEUE (R82): `msg <- m; tail <- 0; pcmd <- pcmd + 1; ph <- WAIT`. -/
def execEnqueue (m : List Byte) (s : State) : Result :=
  require (s.accepts (.enqueue m))
    (fun s => .next { s.setPh .wait with msg := m, tail := false, pcmd := s.pcmd + 1 }) s

/-- ENQUEUE_LINE (R83): as ENQUEUE, with `tail <- 1`. -/
def execEnqueueLine (m : List Byte) (s : State) : Result :=
  require (s.accepts (.enqueueLine m))
    (fun s => .next { s.setPh .wait with msg := m, tail := true, pcmd := s.pcmd + 1 }) s

end Sys2Proof.Machine
end

