-- ==== Sys2Proof/Machine/Device.lean ====
section
/-! DEFINITION. The device's own steps and the Host's receive traffic (43_uart_boundary.md R130, R132, R134). -/

namespace Sys2Proof.Machine

/-- TX_EVENT (R132): `UARTRIS[5] <- 1; owed <- (owed > 0) ? owed - 1 : 0`. While UARTIFLS holds a reserved trigger code
there is no trigger level and the event is refused (R133; log 11). -/
def execDevTxEvent (s : State) : Result :=
  match s.txTrig with
  | none => .next (s.refuse .reservedIfls)
  | some trig =>
    require (s.txEventEnabled trig) (fun s => .next { s.setTxRIS with owed := s.owed - 1 }) s

/-- SHIFT (R130): move the FIFO's head to the wire. -/
def execDevShift (s : State) : Result :=
  require s.shiftEnabled
    (fun s => .next { s with wire := s.wire ++ s.txFifo.take 1, txFifo := s.txFifo.drop 1 }) s

/-- HOST_RX_EVENT (R134): `UARTRIS[4] <- 1`, under the launch premise `rxTraffic`. -/
def execHostRxEvent (s : State) : Result :=
  require s.params.rxTraffic (fun s => .next s.setRxRIS) s

end Sys2Proof.Machine
end

