-- ==== Sys2Proof/Machine/Drain.lean ====
section
/-! DEFINITION. The Drain's three outcomes (41_drain.md R101 to R105). Each invocation begins with ACK. That an invocation
needs the dispatch condition (R101, 60_exceptions.md R148) is the step's part (Machine/Fetch.lean; log 13). -/

namespace Sys2Proof.Machine

open Sys2Proof.Config

/-- SKIP (R103): nothing after ACK. -/
def execDrainSkip (s : State) : Result :=
  require (s.drainOutcome = .skip) (drainInvocation fun s => .next s) s

/-- SEND (R104): write `bytes[cursor]` to UARTDR, then `cursor <- cursor + 1`. -/
def execDrainSend (s : State) : Result :=
  require (s.drainOutcome = .send)
    (drainInvocation fun s =>
      thenDo (memWrite .drain (s.params.uartBase + 0x000#32) 4 (drValue (s.byteAt s.cursor.toNat)) s) fun s =>
        .next { s with cursor := s.cursor + 1 }) s

/-- RETIRE (R105): `bytes[0] <- 0x00; cursor <- 0`. -/
def execDrainRetire (s : State) : Result :=
  require (s.drainOutcome = .retire)
    (drainInvocation fun s => thenDo (storeByte 0 sentinel s) fun s => .next { s with cursor := 0 }) s

end Sys2Proof.Machine
end

