-- ==== Sys2Proof/Machine/Enqueue.lean ====
section
/-! DEFINITION. The Producer's micro-steps of one enqueue, E1 to E7b (40_enqueue.md R85 to R94). -/

namespace Sys2Proof.Machine

open Sys2Proof.Config

/-- E1 (R86): the idle test reads `bytes[0]` only; a failed test is a spin. -/
def execE1Wait (s : State) : Result :=
  require (s.atPhase .wait)
    (fun s => .next (if s.byteAt 0 = sentinel then s.setPh .lock else s.setPh .wait)) s

/-- E2 (R87): `locked <- 1`. -/
def execE2Lock (s : State) : Result :=
  require (s.atPhase .lock) (fun s => .next { s.setPh .guard with locked := true }) s

/-- E3 (R88): `bytes[1] <- 0x00; i <- 0`. -/
def execE3Guard (s : State) : Result :=
  require (s.atPhase .guard)
    (fun s => thenDo (storeByte 1 sentinel s) fun s => .next { s.setPh .copy with i := 0 }) s

/-- E4a (R89): copy one byte, or leave the loop without a write. -/
def execE4aCopy (s : State) : Result :=
  require (s.atPhase .copy)
    (fun s =>
      if s.copyContinues then
        thenDo (storeByte s.i.toNat (s.msg.getD s.i.toNat 0) s) fun s => .next { s.setPh .copy with i := s.i + 1 }
      else .next (s.setPh .term)) s

/-- E4b (R90): `bytes[i] <- 0x00`. -/
def execE4bTerm (s : State) : Result :=
  require (s.atPhase .term)
    (fun s => thenDo (storeByte s.i.toNat sentinel s) fun s => .next (s.setPh .cursor)) s

/-- E5 (R91): `cursor <- 1`. -/
def execE5Cursor (s : State) : Result :=
  require (s.atPhase .cursor) (fun s => .next { s.setPh .unlock with cursor := 1 }) s

/-- E6 (R92): `locked <- 0`. -/
def execE6Unlock (s : State) : Result :=
  require (s.atPhase .unlock) (fun s => .next { s.setPh .kickRead with locked := false }) s

/-- E7a (R93): `t <- bytes[0]`. -/
def execE7aKickRead (s : State) : Result :=
  require (s.atPhase .kickRead) (fun s => .next { s.setPh .kickWrite with t := s.byteAt 0 }) s

/-- E7b (R94): write `t` to UARTDR, then return, or start the second half of ENQUEUE_LINE. -/
def execE7bKickWrite (s : State) : Result :=
  require (s.atPhase .kickWrite)
    (fun s =>
      thenDo (memWrite .producer (s.params.uartBase + 0x000#32) 4 (drValue s.t) s) fun s =>
        .next (if s.tail then { s.setPh .wait with tail := false, msg := crlf } else s.setPh .ready)) s

end Sys2Proof.Machine
end

