-- ==== Sys2Proof/Machine/InitAsync.lean ====
section
/-! DEFINITION. The micro-steps of interrupt arming, I1 to I3 (42_init_async.md R116 to R118). -/

namespace Sys2Proof.Machine

/-- I1 (R116): write UARTIFLS. -/
def execI1InitIfls (s : State) : Result :=
  require (s.atPhase .initIfls)
    (fun s => thenDo (memWrite .producer (s.params.uartBase + 0x034#32) 4 iflsValue s) fun s =>
      .next (s.setPh .initImsc)) s

/-- I2 (R117): write UARTIMSC. -/
def execI2InitImsc (s : State) : Result :=
  require (s.atPhase .initImsc)
    (fun s => thenDo (memWrite .producer (s.params.uartBase + 0x038#32) 4 imscValue s) fun s =>
      .next (s.setPh .initLine)) s

/-- I3 (R118): enable the UART's line at the interrupt controller. -/
def execI3InitLine (s : State) : Result :=
  require (s.atPhase .initLine) (fun s => .next ((enableLine s.params.uartIrqLine s).setPh .ready)) s

end Sys2Proof.Machine
end

