-- ==== Sys2Proof/Machine/RegWrite.lean ====
section
/-! DEFINITION. The four register writes of 30_encoding.md R75 standing alone, with any 32-bit value
(43_uart_boundary.md R123 to R128). Inside a core step the same `memWrite` takes effect within that step (R122). -/

namespace Sys2Proof.Machine

/-- DR_WRITE (R123, R124). -/
def execDrWrite (v : Word) (s : State) : Result := memWrite .bus (s.params.uartBase + 0x000#32) 4 v s

/-- IFLS_WRITE (R128). -/
def execIflsWrite (v : Word) (s : State) : Result := memWrite .bus (s.params.uartBase + 0x034#32) 4 v s

/-- IMSC_WRITE (R127). -/
def execImscWrite (v : Word) (s : State) : Result := memWrite .bus (s.params.uartBase + 0x038#32) 4 v s

/-- ICR_TX (R125, 41_drain.md R102). -/
def execIcrTx (v : Word) (s : State) : Result := memWrite .bus (s.params.uartBase + 0x044#32) 4 v s

end Sys2Proof.Machine
end

