-- ==== Sys2Proof/Machine/Dispatch.lean ====
section
/-! DEFINITION. What each operation does: one arm for each constructor of `Instr`. -/

namespace Sys2Proof.Machine

def exec (i : Instr) (s : State) : Host.Outcome State Fault Refusal :=
  match i with
  | .initAsync => Sys2Proof.Machine.execInitAsync s
  | .enqueue m => Sys2Proof.Machine.execEnqueue m s
  | .enqueueLine m => Sys2Proof.Machine.execEnqueueLine m s
  | .e1Wait => Sys2Proof.Machine.execE1Wait s
  | .e2Lock => Sys2Proof.Machine.execE2Lock s
  | .e3Guard => Sys2Proof.Machine.execE3Guard s
  | .e4aCopy => Sys2Proof.Machine.execE4aCopy s
  | .e4bTerm => Sys2Proof.Machine.execE4bTerm s
  | .e5Cursor => Sys2Proof.Machine.execE5Cursor s
  | .e6Unlock => Sys2Proof.Machine.execE6Unlock s
  | .e7aKickRead => Sys2Proof.Machine.execE7aKickRead s
  | .e7bKickWrite => Sys2Proof.Machine.execE7bKickWrite s
  | .i1InitIfls => Sys2Proof.Machine.execI1InitIfls s
  | .i2InitImsc => Sys2Proof.Machine.execI2InitImsc s
  | .i3InitLine => Sys2Proof.Machine.execI3InitLine s
  | .drainSkip => Sys2Proof.Machine.execDrainSkip s
  | .drainSend => Sys2Proof.Machine.execDrainSend s
  | .drainRetire => Sys2Proof.Machine.execDrainRetire s
  | .devTxEvent => Sys2Proof.Machine.execDevTxEvent s
  | .devShift => Sys2Proof.Machine.execDevShift s
  | .hostRxEvent => Sys2Proof.Machine.execHostRxEvent s
  | .drWrite v => Sys2Proof.Machine.execDrWrite v s
  | .iflsWrite v => Sys2Proof.Machine.execIflsWrite v s
  | .imscWrite v => Sys2Proof.Machine.execImscWrite v s
  | .icrTx v => Sys2Proof.Machine.execIcrTx v s

end Sys2Proof.Machine
end

