-- ==== Sys2Proof/Machine/Fetch.lean ====
section
/-! DEFINITION. What a turn runs: the command at `pcmd`, the micro-step that `ph` names, the Drain's outcome under the
dispatch condition, a device or Host event, or a register write on the bus. `ph` and `pcmd` are the block's program
counters (10_state.md R27). -/

namespace Sys2Proof.Machine

open Sys2Proof.Config

/-- What a turn finds to do. -/
inductive Fetched where
  /-- Run this operation. -/
  | run (i : Instr)
  /-- No step of this agent is enabled: nothing happens (log 2). -/
  | idle
  /-- Record a refusal (60_exceptions.md R143). -/
  | refuse (r : Refusal)
  /-- Record a fault (R142). -/
  | raise (f : Fault)
  /-- Stop: the spec gives no effect (log 15). -/
  | stop (r : Refusal)
  deriving DecidableEq, Repr

/-- The Host's turn: at READY it issues the command at `pcmd`; at any other phase the command waits (40_enqueue.md R84).
A reserved or truncated command is refused with `pcmd` not advanced (30_encoding.md R70). -/
def fetchHost (s : State) : Fetched :=
  if s.atPhase .ready then
    match s.nextCommand with
    | .ok i => .run i
    | .error .reservedCommand => .refuse .reservedCommand
    | .error .truncatedCommand => .refuse .truncatedCommand
    | .error _ => .idle
  else .idle

/-- The Producer's turn: the micro-step that `ph` names; a reserved code faults (30_encoding.md R72, R73). -/
def fetchProducer (s : State) : Fetched :=
  match decodePhase s.ph with
  | .ok i => .run i
  | .error (.reservedPhase c) => .raise (.phaseCorrupt c)
  | .error _ => .idle

/-- The Drain's turn: under the dispatch condition, the outcome that R101 selects. -/
def fetchDrain (s : State) : Fetched :=
  if s.dispatchEnabled then .run s.drainOutcome.instr else .idle

/-- The device's TX event, where it is enabled, and where no trigger level exists (43_uart_boundary.md R132, R133). -/
def fetchTxEvent (s : State) : Fetched :=
  match s.txTrig with
  | none => .refuse .reservedIfls
  | some trig => if s.txEventEnabled trig then .run .devTxEvent else .idle

/-- A register write standing alone on the bus: the REGW word at the address's offset (R75), with the refusals of
20_memory.md R51 and R55. DESIGN CHOICE: the offset is `addr - UART_BASE` modulo 2^32 (log 21), and an access belongs to
the block where its first byte does, whatever bytes it goes on to (log 22). -/
def fetchBus (addr : Word) (n : Nat) (v : Word) (s : State) : Fetched :=
  let off := addr - s.params.uartBase
  if uartBlockSize ≤ off.toNat then .stop (.outsideUart addr)
  else if n ≠ 4 then .refuse .misalignedAccess
  else
    match decodeWrite (off.setWidth 12) v with
    | .ok i => .run i
    | .error .misalignedAccess => .refuse .misalignedAccess
    | .error _ => .stop (.noWriteEffect off)

/-- What a turn finds to do in an initialised UART. -/
def fetchTurn (turn : Turn) (s : State) : Fetched :=
  match turn with
  | .agent .host => fetchHost s
  | .agent .producer => fetchProducer s
  | .agent .drain => fetchDrain s
  | .agent .txEvent => fetchTxEvent s
  | .agent .shift => if s.shiftEnabled then .run .devShift else .idle
  | .agent .rxEvent => if s.params.rxTraffic then .run .hostRxEvent else .idle
  | .bus addr n v => fetchBus addr n v s
  | .secondProducer => .refuse .secondProducer

/-- What a turn finds to do. A launch without the device preconditions is refused: "the model gives the input no meaning and
records the refusal" (43_uart_boundary.md R137, 93_implementation_defined.md U27; log 19). -/
def fetch (turn : Turn) (s : State) : Fetched :=
  if s.uartInitialised then fetchTurn turn s else .refuse .refusedLaunch

/-- Whose turn it is: the head of the schedule, or where it is empty the free schedule's choice (log 1). -/
def State.turn (s : State) : Turn :=
  match s.turns with
  | turn :: _ => turn
  | [] => .agent (freeStep s.tick)

/-- The schedule moves past this turn. -/
def State.passTurn (s : State) : State :=
  match s.turns with
  | _ :: rest => { s with turns := rest }
  | [] => { s with tick := s.tick + 1 }

/-- Record a step's event code (30_encoding.md R74, 41_drain.md R101); a register write alone has none. -/
def State.record (i : Instr) (s : State) : State :=
  match i.eventCode with
  | some c => { s with trace := s.trace ++ [c] }
  | none => s

/-! ### Placing an operation where the next step runs it -/

/-- The turn at which an operation is fetched. -/
def turnOf (base : Word) : Instr → Turn
  | .initAsync | .enqueue _ | .enqueueLine _ => .agent .host
  | .e1Wait | .e2Lock | .e3Guard | .e4aCopy | .e4bTerm | .e5Cursor | .e6Unlock | .e7aKickRead | .e7bKickWrite
  | .i1InitIfls | .i2InitImsc | .i3InitLine => .agent .producer
  | .drainSkip | .drainSend | .drainRetire => .agent .drain
  | .devTxEvent => .agent .txEvent
  | .devShift => .agent .shift
  | .hostRxEvent => .agent .rxEvent
  | .drWrite v => .bus (base + 0x000#32) 4 v
  | .iflsWrite v => .bus (base + 0x034#32) 4 v
  | .imscWrite v => .bus (base + 0x038#32) 4 v
  | .icrTx v => .bus (base + 0x044#32) 4 v

/-- Give the next turn to `turn`, with the UART initialised (43_uart_boundary.md R137). -/
def State.withTurn (turn : Turn) (s : State) : State :=
  { s with turns := turn :: s.turns, uartCR := s.uartCR ||| 0x101#32, uartLCRH := s.uartLCRH ||| 0x10#32 }

/-- Launch a command stream: it stands at `pcmd`, and the Producer is READY for it. -/
def State.withStream (bs : List Byte) (s : State) : State := { s.setPh .ready with prog := bs, pcmd := 0 }

/-- Make the dispatch condition hold (60_exceptions.md R148) by a pending, unmasked transmit cause. -/
def State.withDispatch (s : State) : State :=
  { s with lineEn := true, cpuIrqEn := true, uartRIS := s.uartRIS ||| txCause, uartIMSC := s.uartIMSC ||| txCause }

/-- Make R101 select an outcome, where it does not already. -/
def State.withOutcome (o : DrainOutcome) (s : State) : State :=
  if s.drainOutcome = o then s
  else
    match o with
    | .skip => { s with locked := true }
    | .send => { s with locked := false, cursor := 1, bytes := Memory.write s.bytes 1 0x41#8 }
    | .retire => { s with locked := false, bytes := Memory.write s.bytes s.cursor.toNat sentinel }

/-- Make TX_EVENT enabled (43_uart_boundary.md R132): an event owed, and the FIFO at the trigger level of 1/8. -/
def State.withTxEvent (s : State) : State :=
  { s with owed := max 1 s.owed, txFifo := s.txFifo.take (txFifoDepth / 8), uartIFLS := s.uartIFLS &&& ~~~0x7#32 }

/-- Make SHIFT enabled (R130): a byte in the FIFO. -/
def State.withShift (s : State) : State := { s with txFifo := if s.txFifo.isEmpty then [0x41#8] else s.txFifo }

/-- Put an operation where the next step fetches it, with the conditions under which that step is enabled (log 10). -/
def State.withInstr (i : Instr) (s : State) : State :=
  let s1 := s.withTurn (turnOf s.params.uartBase i)
  match i with
  | .initAsync => s1.withStream (encode .initAsync)
  | .enqueue m => s1.withStream (encode (.enqueue m))
  | .enqueueLine m => s1.withStream (encode (.enqueueLine m))
  | .e1Wait => s1.setPh .wait
  | .e2Lock => s1.setPh .lock
  | .e3Guard => s1.setPh .guard
  | .e4aCopy => s1.setPh .copy
  | .e4bTerm => s1.setPh .term
  | .e5Cursor => s1.setPh .cursor
  | .e6Unlock => s1.setPh .unlock
  | .e7aKickRead => s1.setPh .kickRead
  | .e7bKickWrite => s1.setPh .kickWrite
  | .i1InitIfls => s1.setPh .initIfls
  | .i2InitImsc => s1.setPh .initImsc
  | .i3InitLine => s1.setPh .initLine
  | .drainSkip => (s1.withOutcome .skip).withDispatch
  | .drainSend => (s1.withOutcome .send).withDispatch
  | .drainRetire => (s1.withOutcome .retire).withDispatch
  | .devTxEvent => s1.withTxEvent
  | .devShift => s1.withShift
  | .hostRxEvent => { s1 with params := { s1.params with rxTraffic := true } }
  | .drWrite _ | .iflsWrite _ | .imscWrite _ | .icrTx _ => s1

/-- Put a table word where the next step fetches it: a command's bytes as they are, so that a reserved header is met by
the Host's turn; any other word by its decoded operation. -/
def State.withTableWord (s : State) (nbits w : Nat) : State :=
  match tableFormat nbits w with
  | .cmd => (s.withTurn (.agent .host)).withStream (tableBytes .cmd w)
  | .ph | .evt | .regw =>
    match decodeTableWord nbits w with
    | some i => s.withInstr i
    | none => s

end Sys2Proof.Machine
end

