-- ==== Sys2Proof/Machine/Step.lean ====
section
/-! DEFINITION. One step of the machine: one agent's atomic step (00_scope.md R7 to R9), in the total order that the
schedule gives (20_memory.md R57). -/

namespace Sys2Proof.Machine

/-- One turn: the schedule moves on, and what the turn finds is done. -/
def step (s : State) : Host.Outcome State Fault Refusal :=
  match fetch s.turn s with
  | .run i => exec i (s.passTurn.record i)
  | .idle => .next s.passTurn
  | .refuse r => .next (s.passTurn.refuse r)
  | .raise f => .next (s.passTurn.raise f)
  | .stop r => .refused r

/-- The state with a table word placed where the next step fetches and runs it. -/
def State.withFetchWord (s : State) (nbits w : Nat) : State := s.withTableWord nbits w

end Sys2Proof.Machine
end

