-- ==== Sys2Proof/Safety.lean ====
section
/-! DEFINITION. What claims about the block are stated in: the final state and the launch premises (70_reset_and_hazards.md
R161, R181, R184), runs, fairness and hangs (R182, 60_exceptions.md R144), the output that a program owes (R183), and the
invariants of the machine. -/

namespace Sys2Proof.Machine

open Sys2Proof.Config

/-! ### Marks, final states, premises -/

/-- No fault and no refusal is recorded (premise `noFault`, R184). -/
def State.unmarked (s : State) : Bool := s.faults.isEmpty && !s.refused

/-- A final state (R181). DESIGN CHOICE (log 23): where the stream goes on with a reserved or truncated command, no state is
final, whether or not that command has been refused. -/
def State.final (s : State) : Bool :=
  decide ((decodeStream s.prog).2 = .endOfStream) && decide (s.pcmd = (decodeStream s.prog).1.length)
    && s.atPhase .ready && decide (s.bufferPhase = .idle) && s.txFifo.isEmpty && decide (s.owed = 0)
    && (!s.txRIS || !s.dispatchEnabled) && s.unmarked

/-- A turn of one of the agents of 00_scope.md R8. -/
def Turn.isAgent : Turn → Bool
  | .agent _ => true
  | .bus _ _ _ => false
  | .secondProducer => false

/-- Premises `singleProducer`, `noOtherDrWriter`, `noHostReconfig` (R184): only the agents move. -/
def State.onlyAgents (s : State) : Bool := s.turns.all Turn.isAgent

/-- Premise `rxQuiet` (R184), with no receive cause pending where it could invoke the Drain. -/
def State.rxQuiet (s : State) : Bool := !s.params.rxInvokesDrain || (!s.params.rxTraffic && !s.rxRIS)

/-- Premises `resetState`, `uartInitialised` and `irqEnabled` (R161, R163, R165): every component that R161 fixes has its
value; the buffer cells above 0, the program, the parameters, the unnamed register bits and the schedule are free. -/
structure State.Launched (s : State) : Prop where
  bytes_wf : Memory.wf s.bytes = true
  bytes_zero : s.byteAt 0 = sentinel
  cursor : s.cursor = 0
  locked : s.locked = false
  msg : s.msg = []
  i : s.i = 0
  t : s.t = 0
  tail : s.tail = false
  ph : s.ph = Phase.ready.code
  pcmd : s.pcmd = 0
  txFifo : s.txFifo = []
  wire : s.wire = []
  owed : s.owed = 0
  uartRIS : s.uartRIS = 0
  uartIMSC : s.uartIMSC = 0
  uartIFLS : s.uartIFLS = 0x12#32
  uartCR : s.uartCR &&& 0x301#32 = 0x301#32
  uartLCRH : s.uartLCRH &&& 0x70#32 = 0x70#32
  lineEn : s.lineEn = false
  cpuIrqEn : s.cpuIrqEn = true
  faults : s.faults = []
  refusals : s.refusals = []
  trace : s.trace = []

/-! ### Runs -/

/-- `n` steps of the machine, stopping at a stop. -/
def steps : Nat → State → Result
  | 0, s => .next s
  | n + 1, s => thenDo (step s) (steps n)

/-- The Producer's micro-step that `ph` names, with no other agent in between; a phase without one stays. -/
def producerMove (s : State) : Result :=
  match decodePhase s.ph with
  | .ok i => exec i s
  | .error _ => .next s

/-- `n` micro-steps of the Producer in a row. -/
def producerMoves : Nat → State → Result
  | 0, s => .next s
  | n + 1, s => thenDo (producerMove s) (producerMoves n)

/-- The state with its coming turn given to an agent. -/
def State.giveTurn (a : AgentStep) (s : State) : State := { s with turns := [.agent a] }

/-- An infinite run of agents' turns: `sched n` has the turn in the state `r n`, and the step gives `r (n + 1)`. -/
def IsRun (sched : Nat → AgentStep) (r : Nat → State) : Prop :=
  ∀ n, step ((r n).giveTurn (sched n)) = .next (r (n + 1))

/-- The agent's step is enabled. -/
def State.enabled (a : AgentStep) (s : State) : Bool :=
  match fetch (.agent a) s with
  | .run _ => true
  | .idle | .refuse _ | .raise _ | .stop _ => false

/-- An enabled step for which R182 assumes fairness: not the receive traffic, and no spurious TX event. -/
def State.fairEnabled (a : AgentStep) (s : State) : Bool :=
  s.enabled a && decide (a ≠ .rxEvent) && (decide (a ≠ .txEvent) || decide (0 < s.owed))

/-- Weak fairness (R182): a step that stays enabled from some point of the run on is taken after it. -/
def WeaklyFair (sched : Nat → AgentStep) (r : Nat → State) : Prop :=
  ∀ a n, (∀ m, n ≤ m → (r m).fairEnabled a = true) → ∃ m, n ≤ m ∧ sched m = a

/-- A hang (60_exceptions.md R144): E1 is taken infinitely often while `bytes[0]` stays non-zero. -/
def Hangs (sched : Nat → AgentStep) (r : Nat → State) : Prop :=
  ∃ n, (∀ m, n ≤ m → (r m).byteAt 0 ≠ sentinel) ∧
    ∀ m, n ≤ m → ∃ k, m ≤ k ∧ sched k = .producer ∧ fetch (.agent .producer) (r k) = .run .e1Wait

/-- A finite piece of schedule in which every agent that R182 assumes fairness for has a turn. -/
def fairRound (turns : List Turn) : Bool :=
  turns.all Turn.isAgent &&
    [AgentStep.host, .producer, .drain, .txEvent, .shift].all fun a => turns.contains (.agent a)

/-! ### The output that a program owes (R183) -/

/-- What a command puts on the wire when its stored part is not empty (40_enqueue.md R95, R99). -/
def payload (stops : Bool) : Instr → List Byte
  | .enqueue m => storedPart stops m
  | .enqueueLine m => storedPart stops m ++ crlf
  | .initAsync | .e1Wait | .e2Lock | .e3Guard | .e4aCopy | .e4bTerm | .e5Cursor | .e6Unlock | .e7aKickRead
  | .e7bKickWrite | .i1InitIfls | .i2InitImsc | .i3InitLine | .drainSkip | .drainSend | .drainRetire | .devTxEvent
  | .devShift | .hostRxEvent => []
  | .drWrite _ | .iflsWrite _ | .imscWrite _ | .icrTx _ => []

/-- The output of the first `n` commands, in command order. -/
def programOutput (stops : Bool) (prog : List Byte) (n : Nat) : List Byte :=
  ((decodeStream prog).1.take n).flatMap (payload stops)

/-- Every message of the program has a non-empty stored part (R183; 70_reset_and_hazards.md R168). -/
def noEmptyMessage (stops : Bool) (prog : List Byte) : Bool :=
  (decodeStream prog).1.all fun i =>
    match i.message with
    | some m => !(storedPart stops m).isEmpty
    | none => true

/-- The bytes from `cursor` up to the sentinel that the Drain has still to send; none once `bytes[0]` is 0x00. -/
def State.bufferRest (s : State) : List Byte :=
  if s.byteAt 0 = sentinel then []
  else (((List.range capacity).drop s.cursor.toNat).map s.byteAt).takeWhile (· != sentinel)

/-- The stored part of the message in progress, and CR LF where it is still owed. -/
def State.messageRest (s : State) : List Byte :=
  storedPart s.params.copyStopsAtZero s.msg ++ (if s.tail then crlf else [])

/-- What the accepted commands have still to give to UARTDR. -/
def State.undelivered (s : State) : List Byte :=
  if s.atPhase .wait then s.bufferRest ++ s.messageRest
  else if s.atPhase .lock || s.armed then s.messageRest
  else s.bufferRest

/-! ### Invariants -/

/-- Some cell at or after `cursor` holds the sentinel. -/
def State.sentinelAhead (s : State) : Prop := ∃ k, s.cursor.toNat ≤ k ∧ k < capacity ∧ s.byteAt k = sentinel

/-- The phases from after E2 to E5, in which `cursor` and the buffer do not belong together. -/
def State.rewriting (s : State) : Bool :=
  s.atPhase .guard || s.atPhase .copy || s.atPhase .term || s.atPhase .cursor

/-- The buffer's invariant: canonical storage, the lock exactly in its span (40_enqueue.md R100), `cursor` and `i` inside
the buffer (10_state.md R40), the FIFO inside its depth (R29), a sentinel ahead of the Drain, and what the copy has
prepared for it. -/
structure State.BufferInv (s : State) : Prop where
  bytes_wf : Memory.wf s.bytes = true
  lock_span : s.locked = s.loading
  cursor_bound : s.cursor.toNat < capacity
  index_bound : s.i.toNat < capacity
  fifo_bound : s.txFifo.length ≤ txFifoDepth
  sentinel_ahead : s.rewriting = false → s.sentinelAhead
  guard_kept : (s.atPhase .copy || s.atPhase .term || s.atPhase .cursor) = true → s.i = 0 → s.byteAt 1 = sentinel
  terminated : s.atPhase .cursor = true → s.byteAt s.i.toNat = sentinel

/-- The window's invariant (70_reset_and_hazards.md R167), for a copy that stops at 0x00: in the window `bytes[0]` is 0x00,
and outside the rewriting phases a buffer whose `bytes[0]` is 0x00 has nothing for the Drain to send. -/
structure State.WindowInv (s : State) : Prop where
  buffer : s.BufferInv
  stops : s.params.copyStopsAtZero = true
  first_copied : (s.atPhase .copy || s.atPhase .term || s.atPhase .cursor) = true → s.i ≠ 0 → s.byteAt 0 ≠ sentinel
  nothing_to_send : s.rewriting = false → s.byteAt 0 = sentinel →
    s.cursor = 0 ∨ (s.cursor = 1 ∧ s.byteAt 1 = sentinel)
  idle_seen : s.atPhase .lock = true → s.byteAt 0 = sentinel

/-- The Producer holds the right to write UARTDR: from E1's passing to E7b. -/
def State.producerHolds (s : State) : Bool := s.atPhase .lock || s.armed

/-- Draining with the right to write UARTDR at the device or the Drain. -/
def State.inDrain (s : State) : Bool := !s.producerHolds && s.byteAt 0 != sentinel

/-- TX causes owed or pending. -/
def State.txTokens (s : State) : Nat := s.owed + (if s.txRIS then 1 else 0)

/-- A message is being enqueued and its copy is not over. -/
def State.messageAhead (s : State) : Bool :=
  s.atPhase .wait || s.atPhase .lock || s.atPhase .guard || s.atPhase .copy

/-- The single-writer invariant behind 70_reset_and_hazards.md R171, under R171's premises and for a trigger level of at
most `level`: at every moment either one TX event is owed or pending, or the right to write UARTDR is idle or with the
Producer; so the FIFO never rises above `level + 1`. -/
structure State.SingleWriterInv (level : Nat) (s : State) : Prop where
  window : s.WindowInv
  agents : s.onlyAgents = true
  quiet : s.rxQuiet = true
  mode : s.params.txEventMode = .owed
  program : noEmptyMessage true s.prog = true
  trigger : ∃ n, s.txTrig = some n ∧ n ≤ level
  level_low : 2 ≤ level
  level_high : level < txFifoDepth
  message : s.messageAhead = true → storedPart true s.msg ≠ []
  loaded : (s.atPhase .term || s.atPhase .cursor) = true → s.i ≠ 0
  held : (s.atPhase .unlock || s.atPhase .kickRead || s.atPhase .kickWrite) = true → s.byteAt 0 ≠ sentinel
  tokens : s.txTokens = if s.inDrain then 1 else 0
  fifo_level : s.txFifo.length ≤ level + s.owed

/-- What the buffer holds of the message while the Producer loads and kicks it (40_enqueue.md R95). -/
structure State.LoadedInv (s : State) : Prop where
  copied : s.atPhase .copy = true → s.i.toNat ≤ (storedPart true s.msg).length
  copied_all : (s.atPhase .term || s.atPhase .cursor) = true → s.i.toNat = (storedPart true s.msg).length
  stored : (s.atPhase .copy || s.atPhase .term || s.atPhase .cursor) = true →
    ∀ k, k < s.i.toNat → (storedPart true s.msg)[k]? = some (s.byteAt k)
  ready_to_send : (s.atPhase .unlock || s.atPhase .kickRead || s.atPhase .kickWrite) = true →
    s.cursor = 1 ∧ (∀ k, k < (storedPart true s.msg).length → (storedPart true s.msg)[k]? = some (s.byteAt k)) ∧
      s.byteAt (storedPart true s.msg).length = sentinel
  latched : s.atPhase .kickWrite = true → s.t = s.byteAt 0

/-- The output invariant behind R183: what is on the wire, in the FIFO and still to be sent is exactly the output of the
commands accepted so far, in command order. -/
structure State.OutputInv (level : Nat) (s : State) : Prop where
  writer : s.SingleWriterInv level
  loaded : s.LoadedInv
  accepted : s.pcmd ≤ (decodeStream s.prog).1.length
  no_tail : (s.atPhase .ready || s.atPhase .initIfls || s.atPhase .initImsc || s.atPhase .initLine) = true → s.tail = false
  known_phase : (Phase.ofCode s.ph).isSome = true
  output : s.wire ++ s.txFifo ++ s.undelivered = programOutput true s.prog s.pcmd

/-- How often a code stands in the trace. -/
def State.traceCount (c : Byte) (s : State) : Nat := s.trace.count c

/-- The books of the device in `Owed` mode (43_uart_boundary.md R126, R130): each accepted UARTDR write is on the wire or
in the FIFO, and owes exactly one TX event that is either recorded or still owed. -/
structure State.DeviceBooksInv (s : State) : Prop where
  mode : s.params.txEventMode = .owed
  events : s.owed + s.traceCount 0x90#8 = s.wire.length + s.txFifo.length
  shifts : s.traceCount 0x91#8 = s.wire.length
  codes : s.trace.all isEventCode = true

end Sys2Proof.Machine
end

