-- ==== Sys2Proof/Certificates/Slice0/Obligations.lean ====
section
/-! DEFINITION. The statements for the provers, one definition each; OBLIGATIONS.json lists them with the rules they
formalise. -/

open Sys2Proof Sys2Proof.Machine Sys2Proof.Config

/-! ### Encoding -/

/-- Words written out from R65 to R77 decode to the operations they stand for (95_test_vectors.md V-C1 to V-C9). The
bytes of a phase code and of a register write are laid out as the model chooses (log 9). -/
def Obligations.SpecWordsDecode : Prop :=
  decode .cmd [0x01#8, 0x00#8] = .ok (.initAsync, []) ∧
  decode .cmd [0x02#8, 0x02#8, 0x48#8, 0x69#8] = .ok (.enqueue [0x48#8, 0x69#8], []) ∧
  decode .cmd [0x03#8, 0x02#8, 0x4F#8, 0x4B#8] = .ok (.enqueueLine [0x4F#8, 0x4B#8], []) ∧
  decode .cmd [0x02#8, 0x00#8, 0x01#8, 0x00#8] = .ok (.enqueue [], [0x01#8, 0x00#8]) ∧
  decode .ph [0x01#8] = .ok (.e1Wait, []) ∧ decode .ph [0x09#8] = .ok (.e7bKickWrite, []) ∧
  decode .ph [0x0C#8] = .ok (.i3InitLine, []) ∧
  decode .evt [0x82#8] = .ok (.drainSend, []) ∧ decode .evt [0xA0#8] = .ok (.hostRxEvent, []) ∧
  decode .regw [0x00#8, 0x00#8, 0x41#8, 0x01#8, 0x00#8, 0x00#8] = .ok (.drWrite 0x141#32, []) ∧
  decode .regw [0x44#8, 0x00#8, 0x20#8, 0x00#8, 0x00#8, 0x00#8] = .ok (.icrTx 0x20#32, [])

/-- Decoding an encoded well-formed operation gives it back, with every operand, and leaves the bytes after it. -/
def Obligations.DecodeEncodeAgree : Prop :=
  ∀ (i : Instr) (rest : List Byte), i.wellFormed = true → decode i.format (encode i ++ rest) = .ok (i, rest)

/-- Each word has one meaning: bytes that decode are the encoding of what they decode to. -/
def Obligations.EncodeDecodeAgree : Prop :=
  ∀ (f : Format) (bs rest : List Byte) (i : Instr), decode f bs = .ok (i, rest) →
    bs = encode i ++ rest ∧ i.wellFormed = true ∧ i.format = f

/-- R71: every byte string decodes to a sequence of commands followed by at most one refusal, and a command is `2 + len`
bytes long. -/
def Obligations.EveryStreamDecodes : Prop :=
  ∀ bs : List Byte, ∃ rest, bs = encodeStream (decodeStream bs).1 ++ rest ∧
    decodeCommand rest = .error (decodeStream bs).2 ∧
    (∀ i ∈ (decodeStream bs).1,
      i.format = .cmd ∧ i.wellFormed = true ∧ (encode i).length = 2 + (i.message.getD []).length)

/-- R70: the reserved headers and the truncated streams, each refused at the Host's turn with `pcmd` not advanced. -/
def Obligations.ReservedAndTruncatedCommandsAreRefused : Prop :=
  (∀ (opc len : Byte) (rest : List Byte), opc = 0#8 ∨ 4 ≤ opc.toNat →
    decodeCommand (opc :: len :: rest) = .error .reservedCommand) ∧
  (∀ (len : Byte) (rest : List Byte), len ≠ 0#8 → decodeCommand (0x01#8 :: len :: rest) = .error .reservedCommand) ∧
  (∀ b : Byte, decodeCommand [b] = .error .truncatedCommand) ∧
  (∀ (opc len : Byte) (rest : List Byte), opc = 0x02#8 ∨ opc = 0x03#8 → rest.length < len.toNat →
    decodeCommand (opc :: len :: rest) = .error .truncatedCommand) ∧
  (∀ s : State, s.uartInitialised = true → s.turn = .agent .host → s.atPhase .ready = true →
    (s.nextCommand = .error .reservedCommand →
      step s = .next (s.passTurn.refuse .reservedCommand) ∧
        (s.passTurn.refuse .reservedCommand).refused = true ∧ (s.passTurn.refuse .reservedCommand).pcmd = s.pcmd) ∧
    (s.nextCommand = .error .truncatedCommand →
      step s = .next (s.passTurn.refuse .truncatedCommand) ∧
        (s.passTurn.refuse .truncatedCommand).refused = true ∧ (s.passTurn.refuse .truncatedCommand).pcmd = s.pcmd))

/-- R73: a reserved phase code is written by no step, and a Producer turn at one records `PhaseCorrupt` and takes no
Producer step. -/
def Obligations.ReservedPhasesFaultAndAreNeverWritten : Prop :=
  ∀ s : State,
    (s.uartInitialised = true → 0xD ≤ s.ph.toNat → s.turn = .agent .producer → step s = .next (s.passTurn.raise (.phaseCorrupt s.ph))) ∧
    (∀ s', step s = .next s' → 0xD ≤ s'.ph.toNat → s'.ph = s.ph)

/-! ### The step -/

/-- In an initialised UART each turn runs the operation that the decoder reads where that turn fetches, after the schedule
has moved on and the trace has recorded the step's code; the Drain's outcome and the device's and the Host's events run
under the conditions of R148, R132, R130 and R134. A launch without R137's preconditions is refused at every turn
(93_implementation_defined.md U27; log 19). The schedule, the trace and the turn of a register write standing alone on the
bus are the model's choices (logs 1, 12 and 14). -/
def Obligations.StepRunsTheDecodedOperation : Prop :=
  ∀ s : State,
    ((s.uartLCRH.getLsbD 4 && s.uartCR.getLsbD 0 && s.uartCR.getLsbD 8) = false →
      step s = .next (s.passTurn.refuse .refusedLaunch) ∧ (s.passTurn.refuse .refusedLaunch).refused = true) ∧
    ((s.uartLCRH.getLsbD 4 && s.uartCR.getLsbD 0 && s.uartCR.getLsbD 8) = true →
      (s.turn = .agent .host → s.atPhase .ready = true → ∀ i, commandAt s.prog s.pcmd = .ok i →
        step s = exec i (s.passTurn.record i)) ∧
      (s.turn = .agent .producer → ∀ i, decode .ph [s.ph.setWidth 8] = .ok (i, []) →
        step s = exec i (s.passTurn.record i)) ∧
      (s.turn = .agent .drain → s.dispatchEnabled = true →
        step s = exec s.drainOutcome.instr (s.passTurn.record s.drainOutcome.instr)) ∧
      (s.turn = .agent .txEvent → ∀ trig, s.txTrig = some trig → s.txEventEnabled trig = true →
        step s = exec .devTxEvent (s.passTurn.record .devTxEvent)) ∧
      (s.turn = .agent .shift → s.shiftEnabled = true → step s = exec .devShift (s.passTurn.record .devShift)) ∧
      (s.turn = .agent .rxEvent → s.params.rxTraffic = true →
        step s = exec .hostRxEvent (s.passTurn.record .hostRxEvent)) ∧
      (∀ (off : BitVec 12) (v : Word) (i : Instr), s.turn = .bus (s.params.uartBase + off.setWidth 32) 4 v →
        off.toNat < 0x48 → decodeWrite off v = .ok i → step s = exec i (s.passTurn.record i)))

/-- The model's choice (log 2): a turn whose agent has no enabled step changes the schedule only, but for a mark. -/
def Obligations.DisabledTurnChangesNothing : Prop :=
  ∀ (s : State) (a : AgentStep), s.turn = .agent a → s.enabled a = false →
    ∃ s', step s = .next s' ∧ { s' with faults := s.faults, refusals := s.refusals } = s.passTurn ∧
      s.faults ⊆ s'.faults ∧ s.refusals ⊆ s'.refusals

/-- The model's choice (log 2): an operation whose rule's `require` fails leaves the state as it is; (log 11) a TX event
without a trigger level is refused. -/
def Obligations.NotEnabledOperationWaits : Prop :=
  ∀ s : State,
    (∀ i, i.format = .cmd → s.accepts i = false → exec i s = .next s) ∧
    (∀ i p, i.phase = some p → s.ph ≠ p.code → exec i s = .next s) ∧
    (∀ o : DrainOutcome, s.drainOutcome ≠ o → exec o.instr s = .next s) ∧
    (∀ trig, s.txTrig = some trig → s.txEventEnabled trig = false → exec .devTxEvent s = .next s) ∧
    (s.txTrig = none → exec .devTxEvent s = .next (s.refuse .reservedIfls)) ∧
    (s.shiftEnabled = false → exec .devShift s = .next s) ∧
    (s.params.rxTraffic = false → exec .hostRxEvent s = .next s)

/-- No step writes the launch parameters, the program, `cpuIrqEn`, or the registers that the core never writes
(10_state.md R28, R32, R33, R37). That the UARTFR bits no FIFO level decides stay (log 20), and that no bus write reaches
the other registers (log 15), are the model's choices. -/
def Obligations.LaunchStateNeverChanges : Prop :=
  ∀ s s' : State, step s = .next s' →
    s'.params = s.params ∧ s'.prog = s.prog ∧ s'.cpuIrqEn = s.cpuIrqEn ∧ s'.uartCR = s.uartCR ∧
    s'.uartLCRH = s.uartLCRH ∧ s'.uartIBRD = s.uartIBRD ∧ s'.uartFBRD = s.uartFBRD ∧ s'.uartFRIn = s.uartFRIn ∧
    (s.lineEn = true → s'.lineEn = true)

/-- R43: no step ever clears a recorded fault or refusal. -/
def Obligations.MarksAreSticky : Prop :=
  ∀ s s' : State, step s = .next s' →
    s.faults ⊆ s'.faults ∧ s.refusals ⊆ s'.refusals ∧ (s.unmarked = false → s'.unmarked = false)

/-! ### Commands -/

/-- R115. -/
def Obligations.InitAsyncIsAccepted : Prop :=
  ∀ s : State, s.ph = Phase.ready.code → commandAt s.prog s.pcmd = .ok .initAsync →
    exec .initAsync s = .next { s with pcmd := s.pcmd + 1, ph := Phase.initIfls.code }

/-- R82 and R83. -/
def Obligations.EnqueueCommandsAreAccepted : Prop :=
  ∀ (s : State) (m : List Byte), s.ph = Phase.ready.code →
    (commandAt s.prog s.pcmd = .ok (.enqueue m) →
      exec (.enqueue m) s = .next { s with msg := m, tail := false, pcmd := s.pcmd + 1, ph := Phase.wait.code }) ∧
    (commandAt s.prog s.pcmd = .ok (.enqueueLine m) →
      exec (.enqueueLine m) s = .next { s with msg := m, tail := true, pcmd := s.pcmd + 1, ph := Phase.wait.code })

/-- R84: the Host's step is enabled only at READY with a command left; elsewhere the next command waits; a second
producer's command is refused. That the Host's turn elsewhere passes and changes only the schedule (log 2), and that a second
producer has turns at all (log 14), are the model's choices. -/
def Obligations.CommandsOnlyAtReady : Prop :=
  ∀ s : State, s.uartInitialised = true →
    (s.enabled .host = true ↔ s.ph = Phase.ready.code ∧ ∃ i, (decodeStream s.prog).1[s.pcmd]? = some i) ∧
    (s.turn = .agent .host → s.ph ≠ Phase.ready.code → step s = .next s.passTurn) ∧
    (s.turn = .secondProducer → step s = .next (s.passTurn.refuse .secondProducer))

/-! ### The Producer's micro-steps -/

/-- R86: E1 reads `bytes[0]` only. -/
def Obligations.IdleTestReadsFirstByte : Prop :=
  ∀ s : State, s.ph = Phase.wait.code →
    exec .e1Wait s = .next { s with ph := if s.byteAt 0 = 0x00#8 then Phase.lock.code else Phase.wait.code }

/-- R87 and R92. -/
def Obligations.LockIsSetAndCleared : Prop :=
  ∀ s : State,
    (s.ph = Phase.lock.code → exec .e2Lock s = .next { s with locked := true, ph := Phase.guard.code }) ∧
    (s.ph = Phase.unlock.code → exec .e6Unlock s = .next { s with locked := false, ph := Phase.kickRead.code })

/-- R88, with the frame: nothing but `bytes[1]`, `i` and `ph` changes. -/
def Obligations.GuardWritesSentinelAtOne : Prop :=
  ∀ s : State, s.ph = Phase.guard.code → Memory.wf s.bytes = true →
    ∃ t, exec .e3Guard s = .next t ∧ t.byteAt 1 = 0x00#8 ∧ (∀ k, k ≠ 1 → t.byteAt k = s.byteAt k) ∧
      Memory.wf t.bytes = true ∧ { t with bytes := s.bytes } = { s with i := 0, ph := Phase.copy.code }

/-- R89, both exits, with the frame: a copying step changes `bytes[i]`, `i` and `ph` only, the exit step `ph` only. -/
def Obligations.CopyMovesOneByte : Prop :=
  ∀ s : State, s.ph = Phase.copy.code → Memory.wf s.bytes = true →
    (∀ b, s.i.toNat < 63 → s.msg[s.i.toNat]? = some b → ¬ (s.params.copyStopsAtZero = true ∧ b = 0x00#8) →
      ∃ t, exec .e4aCopy s = .next t ∧ t.byteAt s.i.toNat = b ∧
        (∀ k, k ≠ s.i.toNat → t.byteAt k = s.byteAt k) ∧ Memory.wf t.bytes = true ∧
        t.i.toNat = s.i.toNat + 1 ∧ { t with bytes := s.bytes, i := s.i } = s) ∧
    (63 ≤ s.i.toNat ∨ s.msg.length ≤ s.i.toNat ∨
        (s.params.copyStopsAtZero = true ∧ s.msg[s.i.toNat]? = some 0x00#8) →
      exec .e4aCopy s = .next { s with ph := Phase.term.code })

/-- R90, with the frame: only `bytes[i]` and `ph` change. -/
def Obligations.SentinelIsAppended : Prop :=
  ∀ s : State, s.ph = Phase.term.code → s.i.toNat < 64 → Memory.wf s.bytes = true →
    ∃ t, exec .e4bTerm s = .next t ∧ t.byteAt s.i.toNat = 0x00#8 ∧
      (∀ k, k ≠ s.i.toNat → t.byteAt k = s.byteAt k) ∧ Memory.wf t.bytes = true ∧
      { t with bytes := s.bytes } = { s with ph := Phase.cursor.code }

/-- The model's choice (log 8): E4b at an index outside the buffer stops the machine, and is the only operation that ever
stops it. -/
def Obligations.OnlyAnOffsetOutsideTheBufferStops : Prop :=
  ∀ (i : Instr) (s : State),
    (s.ph = Phase.term.code → 64 ≤ s.i.toNat → exec .e4bTerm s = .fault (.bufferOffset s.i.toNat)) ∧
    ((∃ s', exec i s = .next s') ∨ (i = .e4bTerm ∧ s.ph = Phase.term.code ∧ 64 ≤ s.i.toNat))

/-- R91 and R93. -/
def Obligations.CursorAndLatchMicroSteps : Prop :=
  ∀ s : State,
    (s.ph = Phase.cursor.code → exec .e5Cursor s = .next { s with cursor := 1, ph := Phase.unlock.code }) ∧
    (s.ph = Phase.kickRead.code → exec .e7aKickRead s = .next { s with t := s.byteAt 0, ph := Phase.kickWrite.code })

/-- R94 with R123 and R124: the kick latch goes to UARTDR; then the Producer returns, or starts the second half of
ENQUEUE_LINE. A full FIFO records `TxOverflow` and the rest of the step still runs (95 V-E20). -/
def Obligations.KickWriteSendsTheLatch : Prop :=
  ∀ s : State, s.ph = Phase.kickWrite.code →
    ∃ t, exec .e7bKickWrite s = .next t ∧
      (s.tail = false → t.tail = false ∧ t.msg = s.msg ∧ t.ph = Phase.ready.code) ∧
      (s.tail = true → t.tail = false ∧ t.msg = [0x0D#8, 0x0A#8] ∧ t.ph = Phase.wait.code) ∧
      (s.txFifo.length ≠ 16 → t.txFifo = s.txFifo ++ [s.t] ∧ t.owed = s.owed + 1 ∧ t.faults = s.faults) ∧
      (s.txFifo.length = 16 → t.txFifo = s.txFifo ∧ t.owed = s.owed ∧ .txOverflow s.t .producer ∈ t.faults ∧
        s.faults ⊆ t.faults) ∧
      { t with tail := s.tail, msg := s.msg, ph := s.ph, txFifo := s.txFifo, owed := s.owed, faults := s.faults } = s

/-- R116, R117, R118, with R121's values of the whole registers. -/
def Obligations.InitMicroStepsArmTheInterrupt : Prop :=
  ∀ s : State,
    (s.ph = Phase.initIfls.code → exec .i1InitIfls s =
      .next { s with uartIFLS := 0x20#32, ph := Phase.initImsc.code }) ∧
    (s.ph = Phase.initImsc.code → exec .i2InitImsc s =
      .next { s with uartIMSC := 0x030#32, ph := Phase.initLine.code }) ∧
    (s.ph = Phase.initLine.code → exec .i3InitLine s = .next { s with lineEn := true, ph := Phase.ready.code })

/-- R121 and R120: the three micro-steps in a row give `UARTIFLS = 0x20`, `UARTIMSC = 0x030` and `lineEn = 1`, whatever the
earlier values, and change nothing else but `ph`; where those values stand already, only `ph` changes. -/
def Obligations.InitAsyncEffect : Prop :=
  ∀ s : State, s.ph = Phase.initIfls.code →
    ∃ t, producerMoves 3 s = .next t ∧ t.ph = Phase.ready.code ∧ t.lineEn = true ∧
      t.uartIFLS = 0x20#32 ∧ t.uartIMSC = 0x030#32 ∧ t.txTrig = some 2 ∧
      { t with ph := s.ph, lineEn := s.lineEn, uartIFLS := s.uartIFLS, uartIMSC := s.uartIMSC } = s ∧
      (s.uartIFLS = 0x20#32 → s.uartIMSC = 0x030#32 → s.lineEn = true → t = { s with ph := Phase.ready.code })

/-- R95 with R96: E3, the copy and E4b, with no Drain step in between, leave the stored part, the sentinel behind it, and
`bytes[1] = 0x00` where it is that short; every other cell and everything outside `bytes`, `i` and `ph` stays. -/
def Obligations.LoadStoresTheMessage : Prop :=
  ∀ s : State, s.ph = Phase.guard.code → Memory.wf s.bytes = true → s.params.copyStopsAtZero = true →
    ∃ t, producerMoves ((storedPart true s.msg).length + 3) s = .next t ∧
      (∀ k, k < (storedPart true s.msg).length → (storedPart true s.msg)[k]? = some (t.byteAt k)) ∧
      t.byteAt (storedPart true s.msg).length = 0x00#8 ∧
      ((storedPart true s.msg).length ≤ 1 → t.byteAt 1 = 0x00#8) ∧
      (∀ k, (storedPart true s.msg).length < k → k ≠ 1 → t.byteAt k = s.byteAt k) ∧
      t.i.toNat = (storedPart true s.msg).length ∧ t.ph = Phase.cursor.code ∧ Memory.wf t.bytes = true ∧
      { t with bytes := s.bytes, i := s.i, ph := s.ph } = s

/-- R95 and R96's count: `n = min(63, |msg|, z)` with `z` the index of the first 0x00. -/
def Obligations.StoredPartIsTheTruncatedMessage : Prop :=
  ∀ m : List Byte, ∃ n, storedPart true m = m.take n ∧ n ≤ 63 ∧ n ≤ m.length ∧
    (∀ k, k < n → m[k]? ≠ some 0x00#8) ∧ (n = 63 ∨ n = m.length ∨ m[n]? = some 0x00#8)

/-- R81, R85 and R98: one enqueue from a passing idle test to the kick, with no other agent in between. A non-empty stored
part gives its first byte to UARTDR; an empty one gives exactly the sentinel 0x00. -/
def Obligations.UninterruptedEnqueueSendsFirstByte : Prop :=
  ∀ s : State, s.ph = Phase.wait.code → s.byteAt 0 = 0x00#8 → Memory.wf s.bytes = true →
    s.params.copyStopsAtZero = true → s.txFifo.length ≠ 16 → s.tail = false →
    ∃ t, producerMoves ((storedPart true s.msg).length + 9) s = .next t ∧
      t.txFifo = s.txFifo ++ [(storedPart true s.msg).headD 0x00#8] ∧ t.owed = s.owed + 1 ∧
      t.ph = Phase.ready.code ∧ t.cursor = 1 ∧ t.locked = false ∧ t.faults = s.faults ∧
      (storedPart true s.msg = [] → t.byteAt 0 = 0x00#8 ∧ t.byteAt 1 = 0x00#8)

/-! ### The Drain -/

/-- R103 with R102: only the transmit cause is cleared. -/
def Obligations.SkipOnlyAcknowledges : Prop :=
  ∀ s : State, s.locked = true → exec .drainSkip s = .next { s with uartRIS := s.uartRIS &&& 0xFFFFFFDF#32 }

/-- R104 with R102, R123 and R124: SEND acknowledges, writes `bytes[cursor]` to UARTDR and advances `cursor`; a full FIFO
records `TxOverflow` and the rest still runs (95 V-D8). -/
def Obligations.SendWritesTheCursorByte : Prop :=
  ∀ s : State, s.locked = false → s.cursor.toNat < 64 → s.byteAt s.cursor.toNat ≠ 0x00#8 →
    ∃ t, exec .drainSend s = .next t ∧ t.uartRIS = s.uartRIS &&& 0xFFFFFFDF#32 ∧
      t.cursor.toNat = s.cursor.toNat + 1 ∧
      (s.txFifo.length ≠ 16 →
        t.txFifo = s.txFifo ++ [s.byteAt s.cursor.toNat] ∧ t.owed = s.owed + 1 ∧ t.faults = s.faults) ∧
      (s.txFifo.length = 16 → t.txFifo = s.txFifo ∧ t.owed = s.owed ∧
        .txOverflow (s.byteAt s.cursor.toNat) .drain ∈ t.faults ∧ s.faults ⊆ t.faults) ∧
      { t with uartRIS := s.uartRIS, cursor := s.cursor, txFifo := s.txFifo, owed := s.owed, faults := s.faults } = s

/-- R105 with R102 and R111: RETIRE acknowledges, writes 0x00 at offset 0 and resets `cursor`. -/
def Obligations.RetireEmptiesTheBuffer : Prop :=
  ∀ s : State, s.locked = false → (64 ≤ s.cursor.toNat ∨ s.byteAt s.cursor.toNat = 0x00#8) → Memory.wf s.bytes = true →
    ∃ t, exec .drainRetire s = .next t ∧ t.uartRIS = s.uartRIS &&& 0xFFFFFFDF#32 ∧ t.cursor = 0 ∧
      t.byteAt 0 = 0x00#8 ∧ (∀ k, k ≠ 0 → t.byteAt k = s.byteAt k) ∧ Memory.wf t.bytes = true ∧
      { t with uartRIS := s.uartRIS, cursor := s.cursor, bytes := s.bytes } = s

/-- R101 with R74: one dispatched invocation is one step, with exactly the outcome that `locked`, `cursor` and
`bytes[cursor]` select, recorded by that outcome's code, and leaves everything of the Producer and the Host alone
(60_exceptions.md R152). -/
def Obligations.DispatchedDrainRunsToCompletion : Prop :=
  ∀ s : State, s.uartInitialised = true → s.turn = .agent .drain → s.dispatchEnabled = true →
    Memory.wf s.bytes = true → ∃ t, step s = .next t ∧ t.uartRIS = s.uartRIS &&& 0xFFFFFFDF#32 ∧
      (s.locked = true → t.bytes = s.bytes ∧ t.cursor = s.cursor ∧ t.txFifo = s.txFifo ∧ t.owed = s.owed ∧
        t.faults = s.faults ∧ t.trace = s.trace ++ [0x81#8]) ∧
      (s.locked = false → s.cursor.toNat < 64 → s.byteAt s.cursor.toNat ≠ 0x00#8 →
        t.bytes = s.bytes ∧ t.cursor.toNat = s.cursor.toNat + 1 ∧ t.trace = s.trace ++ [0x82#8] ∧
        (s.txFifo.length ≠ 16 →
          t.txFifo = s.txFifo ++ [s.byteAt s.cursor.toNat] ∧ t.owed = s.owed + 1 ∧ t.faults = s.faults)) ∧
      (s.locked = false → (64 ≤ s.cursor.toNat ∨ s.byteAt s.cursor.toNat = 0x00#8) →
        t.byteAt 0 = 0x00#8 ∧ (∀ k, k ≠ 0 → t.byteAt k = s.byteAt k) ∧ t.cursor = 0 ∧ t.txFifo = s.txFifo ∧
        t.owed = s.owed ∧ t.faults = s.faults ∧ t.trace = s.trace ++ [0x83#8]) ∧
      t.ph = s.ph ∧ t.msg = s.msg ∧ t.i = s.i ∧ t.t = s.t ∧ t.tail = s.tail ∧ t.locked = s.locked ∧
      t.prog = s.prog ∧ t.pcmd = s.pcmd ∧ t.wire = s.wire ∧ t.uartIMSC = s.uartIMSC ∧ t.uartIFLS = s.uartIFLS ∧
      t.lineEn = s.lineEn ∧ t.cpuIrqEn = s.cpuIrqEn ∧ t.refusals = s.refusals

/-- R112, R140 and 92 D26: what an invocation does to the buffer and the device does not depend on why it runs, on the
Producer's registers or on any UART register. -/
def Obligations.DrainDoesNotSeeItsCause : Prop :=
  ∀ s u : State, u.bytes = s.bytes → u.cursor = s.cursor → u.locked = s.locked → u.txFifo = s.txFifo →
    u.owed = s.owed → u.faults = s.faults →
    ∃ t v, exec s.drainOutcome.instr s = .next t ∧ exec u.drainOutcome.instr u = .next v ∧
      u.drainOutcome = s.drainOutcome ∧ v.bytes = t.bytes ∧ v.cursor = t.cursor ∧ v.txFifo = t.txFifo ∧
      v.owed = t.owed ∧ v.faults = t.faults

/-- R129, R136, R148 and R149: the masked status, the interrupt request, and the dispatch condition, which does not read
`ph`. -/
def Obligations.DispatchCondition : Prop :=
  ∀ s : State,
    (∀ k, s.uartMIS.getLsbD k = (s.uartRIS.getLsbD k && s.uartIMSC.getLsbD k)) ∧
    (s.uartIrq = true ↔ ∃ k, s.uartRIS.getLsbD k = true ∧ s.uartIMSC.getLsbD k = true) ∧
    (s.dispatchEnabled = true ↔ s.lineEn = true ∧ s.cpuIrqEn = true ∧
      ((s.uartRIS.getLsbD 5 = true ∧ s.uartIMSC.getLsbD 5 = true) ∨
        (s.params.rxInvokesDrain = true ∧ s.uartRIS.getLsbD 4 = true ∧ s.uartIMSC.getLsbD 4 = true))) ∧
    (s.uartInitialised = true → (s.enabled .drain = true ↔ s.dispatchEnabled = true)) ∧
    (∀ p : BitVec 4, { s with ph := p }.enabled .drain = s.enabled .drain)

/-! ### The device and the register writes -/

/-- R36: TXFF and TXFE follow the FIFO level; the other bits of UARTFR are stored ones, which no step writes (the model's
choice, log 20). -/
def Obligations.FlagRegisterFollowsTheFifo : Prop :=
  ∀ s : State,
    (s.uartFR.getLsbD 5 = true ↔ s.txFifo.length = 16) ∧ (s.uartFR.getLsbD 7 = true ↔ s.txFifo = []) ∧
    (∀ k, k ≠ 5 → k ≠ 7 → s.uartFR.getLsbD k = s.uartFRIn.getLsbD k)

/-- R132: when a TX event is enabled in each mode, and what it does. -/
def Obligations.TxEventRaisesTheCause : Prop :=
  ∀ (s : State) (trig : Nat), s.txTrig = some trig →
    (s.uartInitialised = true → (s.enabled .txEvent = true ↔
      s.txFifo.length ≤ trig ∧ (s.params.txEventMode = .owed → 0 < s.owed))) ∧
    (s.txFifo.length ≤ trig → (s.params.txEventMode = .owed → 0 < s.owed) →
      exec .devTxEvent s =
        .next { s with uartRIS := s.uartRIS ||| 0x20#32, owed := if 0 < s.owed then s.owed - 1 else 0 })

/-- R133: the levels, at every state, at reset and after I1; a reserved code has none. -/
def Obligations.TriggerLevels : Prop :=
  triggerLevel 0b000#3 = some 2 ∧ triggerLevel 0b001#3 = some 4 ∧ triggerLevel 0b010#3 = some 8 ∧
  triggerLevel 0b011#3 = some 12 ∧ triggerLevel 0b100#3 = some 14 ∧
  (∀ sel : BitVec 3, 5 ≤ sel.toNat → triggerLevel sel = none) ∧
  (∀ s : State, s.txTrig = triggerLevel (s.uartIFLS.extractLsb' 0 3)) ∧
  State.reset.txTrig = some 8 ∧
  (∀ s : State, s.ph = Phase.initIfls.code → ∃ t, exec .i1InitIfls s = .next t ∧ t.txTrig = some 2)

/-- R130. -/
def Obligations.ShiftMovesTheHeadToTheWire : Prop :=
  ∀ (s : State) (b : Byte) (rest : List Byte), s.txFifo = b :: rest → s.uartCR.getLsbD 0 = true →
    s.uartCR.getLsbD 8 = true →
    exec .devShift s = .next { s with wire := s.wire ++ [b], txFifo := rest }

/-- R134. -/
def Obligations.RxEventRaisesTheCause : Prop :=
  ∀ s : State,
    (s.params.rxTraffic = true → exec .hostRxEvent s = .next { s with uartRIS := s.uartRIS ||| 0x10#32 }) ∧
    (s.uartInitialised = true → (s.enabled .rxEvent = true ↔ s.params.rxTraffic = true))

/-- R123, R124, R126: a UARTDR write of any value, with room and without. The writer that the fault names is the model's
`bus` (log 14). -/
def Obligations.DataWriteQueuesOrOverflows : Prop :=
  ∀ (s : State) (v : Word),
    (s.txFifo.length ≠ 16 → exec (.drWrite v) s =
      .next { s with txFifo := s.txFifo ++ [v.setWidth 8], owed := s.owed + 1 }) ∧
    (s.txFifo.length = 16 → ∃ t, exec (.drWrite v) s = .next t ∧ .txOverflow (v.setWidth 8) .bus ∈ t.faults ∧
      s.faults ⊆ t.faults ∧ { t with faults := s.faults } = s)

/-- R125 and R127: the interrupt-clear and mask writes of any value. That a clear leaves the reserved bits of UARTRIS as they
are and that a mask write makes those of UARTIMSC 0 is the model's choice (log 20). -/
def Obligations.InterruptRegisterWrites : Prop :=
  ∀ (s : State) (v : Word),
    exec (.icrTx v) s = .next { s with uartRIS := s.uartRIS &&& ~~~(v &&& 0x7FF#32) } ∧
    exec (.imscWrite v) s =
      .next { s with uartIMSC := v &&& 0x7FF#32 }

/-- R128: the level-select write of any value, the trigger level after it, and the refusal of a reserved code in either
field. That the write makes the reserved bits of UARTIFLS 0, whatever the value written, is the model's choice (log 20). -/
def Obligations.LevelSelectWrite : Prop :=
  ∀ (s : State) (v : Word),
    ((v.extractLsb' 0 3).toNat < 5 → (v.extractLsb' 3 3).toNat < 5 →
      ∃ t, exec (.iflsWrite v) s = .next t ∧
        t = { s with uartIFLS := v &&& 0x3F#32 } ∧
        t.txTrig = triggerLevel (v.extractLsb' 0 3)) ∧
    (5 ≤ (v.extractLsb' 0 3).toNat ∨ 5 ≤ (v.extractLsb' 3 3).toNat →
      exec (.iflsWrite v) s = .next (s.refuse .reservedIfls))

/-- R51: a misaligned or sub-word access to the UART register block is refused and has no other effect. That it has a turn
(log 14) and is classed by its first byte (log 22) are the model's choices. -/
def Obligations.MisalignedAccessIsRefused : Prop :=
  ∀ (s : State) (off v : Word) (n : Nat), s.uartInitialised = true → s.turn = .bus (s.params.uartBase + off) n v → off.toNat < 0x48 →
    (n < 4 ∨ off.toNat % 4 ≠ 0) → step s = .next (s.passTurn.refuse .misalignedAccess)

/-- What stops the machine: a bus write to an address or a register for which the spec gives no effect (the model's
choice, log 15), or E4b at an index outside the buffer (log 8). Every other step goes on. -/
def Obligations.WhatStopsTheMachine : Prop :=
  ∀ s : State,
    (∃ s', step s = .next s') ∨
    (∃ addr n v, s.turn = .bus addr n v ∧
      ((0x48 ≤ (addr - s.params.uartBase).toNat ∧ step s = .refused (.outsideUart addr)) ∨
        ((addr - s.params.uartBase).toNat < 0x48 ∧ n = 4 ∧ (addr - s.params.uartBase).toNat % 4 = 0 ∧
          (addr - s.params.uartBase).toNat ∉ [0x000, 0x034, 0x038, 0x044] ∧
          step s = .refused (.noWriteEffect (addr - s.params.uartBase))))) ∨
    (s.turn = .agent .producer ∧ s.ph = Phase.term.code ∧ 64 ≤ s.i.toNat ∧
      step s = .fault (.bufferOffset s.i.toNat))

/-- R47, R18: device steps, receive traffic and register writes touch neither the buffer nor the Producer; commands touch
the Producer's private registers only. -/
def Obligations.OtherAgentsLeaveTheBufferAlone : Prop :=
  ∀ (i : Instr) (s s' : State), exec i s = .next s' →
    (i.format = .regw ∨ i = .devTxEvent ∨ i = .devShift ∨ i = .hostRxEvent →
      s'.bytes = s.bytes ∧ s'.cursor = s.cursor ∧ s'.locked = s.locked ∧ s'.msg = s.msg ∧ s'.i = s.i ∧ s'.t = s.t ∧
      s'.tail = s.tail ∧ s'.ph = s.ph ∧ s'.pcmd = s.pcmd) ∧
    (i.format = .cmd →
      { s' with msg := s.msg, tail := s.tail, ph := s.ph, pcmd := s.pcmd } = s)

/-! ### Reset and the buffer's states -/

/-- R161: the reset values that the spec fixes. (`bytes[1..63]`, the unnamed register bits and the OPEN parameters are the
model's choices, logs 5 to 7, and not part of this statement.) -/
def Obligations.ResetValues : Prop :=
  State.reset.Launched ∧ State.reset.bufferPhase = .idle ∧ State.reset.uartCR.getLsbD 0 = true ∧
  State.reset.uartCR.getLsbD 8 = true ∧ State.reset.uartCR.getLsbD 9 = true ∧
  State.reset.uartLCRH.extractLsb' 5 2 = 0b11#2 ∧ State.reset.uartLCRH.getLsbD 4 = true ∧
  State.reset.params.copyStopsAtZero = true

/-- R41: the three states of the buffer, of which exactly one holds. -/
def Obligations.BufferPhases : Prop :=
  ∀ s : State,
    (s.bufferPhase = .armed ↔ s.ph = Phase.guard.code ∨ s.ph = Phase.copy.code ∨ s.ph = Phase.term.code ∨
      s.ph = Phase.cursor.code ∨ s.ph = Phase.unlock.code ∨ s.ph = Phase.kickRead.code ∨
      s.ph = Phase.kickWrite.code) ∧
    (s.bufferPhase = .idle ↔ s.bufferPhase ≠ .armed ∧ s.byteAt 0 = 0x00#8 ∧ s.cursor = 0) ∧
    (s.bufferPhase = .draining ↔ s.bufferPhase ≠ .armed ∧ s.bufferPhase ≠ .idle)

/-- R108: the transitions of the buffer's state machine, with the row for the empty message (C4) that the source's own
machine lacks. E7b leads to Draining, or to Idle where a RETIRE has already emptied the buffer in the kick phases. -/
def Obligations.BufferStateMachine : Prop :=
  ∀ s s' : State, s.WindowInv → step s = .next s' →
    (s.bufferPhase = .idle → s'.bufferPhase = .idle ∨
      (s'.bufferPhase = .armed ∧ s.turn = .agent .producer ∧ s.ph = Phase.lock.code)) ∧
    (s.bufferPhase = .armed → s'.bufferPhase = .armed ∨
      (s.turn = .agent .producer ∧ s.ph = Phase.kickWrite.code ∧
        (s.byteAt 0 = 0x00#8 ∧ s.cursor = 0 → s'.bufferPhase = .idle) ∧
        (¬ (s.byteAt 0 = 0x00#8 ∧ s.cursor = 0) → s'.bufferPhase = .draining))) ∧
    (s.bufferPhase = .draining → s'.bufferPhase = .draining ∨
      (s'.bufferPhase = .idle ∧ s.turn = .agent .drain ∧ s'.cursor = 0) ∨
      (s'.bufferPhase = .armed ∧ s.turn = .agent .producer ∧ s.ph = Phase.lock.code ∧ s.byteAt 0 = 0x00#8))

/-! ### Invariants and whole-machine rules -/

/-- R106: `cursor` changes only at E5, SEND and RETIRE. -/
def Obligations.CursorAdvancement : Prop :=
  ∀ s s' : State, step s = .next s' → s'.cursor ≠ s.cursor →
    (s.turn = .agent .producer ∧ s.ph = Phase.cursor.code ∧ s'.cursor = 1) ∨
    (s.turn = .agent .drain ∧ s.locked = false ∧ s.cursor.toNat < 64 ∧ s.byteAt s.cursor.toNat ≠ 0x00#8 ∧
      s'.cursor.toNat = s.cursor.toNat + 1) ∨
    (s.turn = .agent .drain ∧ s.locked = false ∧ (64 ≤ s.cursor.toNat ∨ s.byteAt s.cursor.toNat = 0x00#8) ∧
      s'.cursor = 0)

/-- R97 and R111: which cell a step may change, and that none lies outside the buffer. -/
def Obligations.OffsetsWritten : Prop :=
  ∀ (s s' : State) (k : Nat), Memory.wf s.bytes = true → step s = .next s' → s'.byteAt k ≠ s.byteAt k →
    k < 64 ∧
    ((s.turn = .agent .producer ∧
        ((s.ph = Phase.guard.code ∧ k = 1 ∧ s'.byteAt k = 0x00#8) ∨
          (s.ph = Phase.copy.code ∧ k = s.i.toNat ∧ k < 63 ∧ s.msg[k]? = some (s'.byteAt k)) ∨
          (s.ph = Phase.term.code ∧ k = s.i.toNat ∧ s'.byteAt k = 0x00#8))) ∨
      (s.turn = .agent .drain ∧ s.locked = false ∧ k = 0 ∧ s'.byteAt k = 0x00#8))

/-- R21, R60 and R100: `locked` changes only at E2 and E6, and while it is 1 no step but a Producer's changes `bytes` or
`cursor`. -/
def Obligations.LockKeepsTheDrainOut : Prop :=
  ∀ s s' : State, step s = .next s' →
    (s'.locked ≠ s.locked → s.turn = .agent .producer ∧
      ((s.ph = Phase.lock.code ∧ s'.locked = true) ∨ (s.ph = Phase.unlock.code ∧ s'.locked = false))) ∧
    (s.locked = true → s.turn ≠ .agent .producer → s'.bytes = s.bytes ∧ s'.cursor = s.cursor)

/-- R30, R58 and R131 with R75: the wire is append-only, and wire and FIFO together grow at their end by at most one byte,
the one that a UARTDR write of this step gives: E7b's latch, SEND's byte, or the low byte of a write standing alone on the
bus (the model's turn, log 14). -/
def Obligations.WireKeepsWriteOrder : Prop :=
  ∀ s s' : State, step s = .next s' →
    ∃ shifted written, s'.wire = s.wire ++ shifted ∧ s'.wire ++ s'.txFifo = s.wire ++ s.txFifo ++ written ∧
      ((written = [] ∧ s'.owed ≤ s.owed) ∨
        (shifted = [] ∧ s'.owed = s.owed + 1 ∧ ∃ b, written = [b] ∧
          ((s.turn = .agent .producer ∧ s.ph = Phase.kickWrite.code ∧ b = s.t) ∨
            (s.turn = .agent .drain ∧ s.dispatchEnabled = true ∧ s.locked = false ∧ s.cursor.toNat < 64 ∧
              s.byteAt s.cursor.toNat ≠ 0x00#8 ∧ b = s.byteAt s.cursor.toNat) ∨
            (∃ v, s.turn = .bus s.params.uartBase 4 v ∧ b = v.setWidth 8))))

/-- R40, R29, R100 and R97 as one invariant of every step. -/
def Obligations.StepKeepsBufferInvariant : Prop :=
  ∀ s s' : State, s.BufferInv → step s = .next s' → s'.BufferInv

/-- The invariants hold at reset and in every launch state, so the ones above and below are about every run. That
`State.reset` meets `DeviceBooksInv` rests on the model's choices: its TX_EVENT_MODE, which 00_scope.md R6 leaves OPEN, is
`Owed` (log 6, unsafe for a claim about `State.reset` alone), and its trace is empty (log 12), as it is in every launch state.
The clauses about launch states hold for every mode, or take `Owed` as a premise. -/
def Obligations.LaunchStatesMeetTheInvariants : Prop :=
  State.reset.BufferInv ∧ State.reset.WindowInv ∧ State.reset.DeviceBooksInv ∧
  ∀ s : State, s.Launched →
    s.BufferInv ∧ (s.params.copyStopsAtZero = true → s.WindowInv) ∧
    (s.params.txEventMode = .owed → s.DeviceBooksInv) ∧
    (s.params.copyStopsAtZero = true → s.params.txEventMode = .owed → s.onlyAgents = true →
      (s.params.rxInvokesDrain = false ∨ s.params.rxTraffic = false) → noEmptyMessage true s.prog = true →
      s.OutputInv 8)

/-- R167: the window's invariant is kept by every step, and in it a Drain step in the window RETIREs and sends nothing. -/
def Obligations.WindowIsBenign : Prop :=
  (∀ s s' : State, s.WindowInv → step s = .next s' → s'.WindowInv) ∧
  ∀ s : State, s.WindowInv → s.ph = Phase.lock.code →
    s.byteAt 0 = 0x00#8 ∧ s.locked = false ∧ (s.cursor = 0 ∨ (s.cursor = 1 ∧ s.byteAt 1 = 0x00#8)) ∧
    (s.uartInitialised = true → s.turn = .agent .drain → s.dispatchEnabled = true →
      ∃ t, step s = .next t ∧ t.trace = s.trace ++ [0x83#8] ∧ t.byteAt 0 = 0x00#8 ∧ t.cursor = 0 ∧
        t.txFifo = s.txFifo ∧ t.wire = s.wire ∧ t.owed = s.owed ∧ t.ph = s.ph)

/-- R171: in `Owed` mode, with no receive traffic to the Drain and no empty message, the right to write UARTDR is single
at every step, so the FIFO never rises above the trigger level plus one and no fault is recorded. -/
def Obligations.SingleWriterNeverOverflows : Prop :=
  ∀ (level : Nat) (s s' : State), s.SingleWriterInv level → step s = .next s' →
    s'.SingleWriterInv level ∧ s'.txFifo.length ≤ level + 1 ∧
    ((Phase.ofCode s.ph).isSome = true → s'.faults = s.faults)

/-- R126 and R130: the device's books balance at every step. -/
def Obligations.DeviceBooksBalance : Prop :=
  ∀ s s' : State, s.DeviceBooksInv → step s = .next s' → s'.DeviceBooksInv

/-- R183's contents: under its premises no step stops, records a fault, loses, adds or reorders a byte: wire, FIFO and what
is still to be sent stay exactly the output of the commands accepted so far. -/
def Obligations.OutputIsExactAtEveryStep : Prop :=
  ∀ (level : Nat) (s : State), s.OutputInv level →
    ∃ s', step s = .next s' ∧ s'.OutputInv level ∧ s'.faults = s.faults

/-- R183. From a launch state under R183's premises, with INIT_ASYNC first and a complete command stream, every weakly fair
run (R182) reaches a final state, whose wire is the concatenation of the messages' stored parts in command order, each
ENQUEUE_LINE followed by CR LF; a final state has no fault recorded (R181). And whatever the schedule, fair or not, the wire
of any final state that a run of any length ends in is that. An infinite run here is one of agents' turns, of which those
without an enabled step are stutters (logs 2, 17); what is final where the stream is not complete is log 23. -/
def Obligations.FinalWireIsTheProgramsOutput : Prop :=
  (∀ (sched : Nat → AgentStep) (r : Nat → State), IsRun sched r → WeaklyFair sched r → (r 0).Launched →
    (r 0).params.copyStopsAtZero = true → (r 0).params.txEventMode = .owed →
    ((r 0).params.rxInvokesDrain = false ∨ (r 0).params.rxTraffic = false) → noEmptyMessage true (r 0).prog = true →
    (decodeStream (r 0).prog).2 = .endOfStream → (decodeStream (r 0).prog).1.head? = some .initAsync →
    ∃ n, (r n).final = true ∧ (r n).faults = [] ∧
      (r n).wire = (decodeStream (r 0).prog).1.flatMap (payload true)) ∧
  ∀ (n : Nat) (s t : State), s.Launched → s.params.copyStopsAtZero = true → s.params.txEventMode = .owed →
    s.onlyAgents = true → (s.params.rxInvokesDrain = false ∨ s.params.rxTraffic = false) →
    noEmptyMessage true s.prog = true → steps n s = .next t → t.final = true →
    t.wire = (decodeStream s.prog).1.flatMap (payload true)

/-- R183's termination with a bound, the model's own (log 17): with INIT_ASYNC first and a complete command stream, every
schedule of agents' turns made of at least 279 rounds for each command, in each of which every agent has a turn, takes a
launch state under R183's premises to a final state, whose wire is the program's output. -/
def Obligations.FairRoundsReachAFinalState : Prop :=
  ∀ (rounds : List (List Turn)) (s : State), s.Launched → s.params.copyStopsAtZero = true →
    s.params.txEventMode = .owed → (s.params.rxInvokesDrain = false ∨ s.params.rxTraffic = false) →
    noEmptyMessage true s.prog = true → (decodeStream s.prog).2 = .endOfStream →
    (decodeStream s.prog).1.head? = some .initAsync → (∀ round ∈ rounds, fairRound round = true) →
    279 * (decodeStream s.prog).1.length ≤ rounds.length → s.turns = rounds.flatten →
    ∃ t, steps rounds.flatten.length s = .next t ∧ t.final = true ∧
      t.wire = (decodeStream s.prog).1.flatMap (payload true)

/-- R169 with R144: while the line is not enabled, a Producer that waits in E1 on a non-zero `bytes[0]` is still there
after any number of steps of any agents: each of its turns is one more spin, no command is accepted (so neither is an
INIT_ASYNC queued behind it), and no state on the way is final. So every weakly fair infinite run from there, in an
initialised UART, is a hang. An infinite run is one of agents' turns (log 17). -/
def Obligations.EnqueueBeforeInitHangs : Prop :=
  (∀ (sched : Nat → AgentStep) (r : Nat → State), IsRun sched r → WeaklyFair sched r → (r 0).uartInitialised = true →
    (r 0).lineEn = false → (r 0).ph = Phase.wait.code → (r 0).byteAt 0 ≠ 0x00#8 → Hangs sched r) ∧
  ∀ (n : Nat) (s : State), s.lineEn = false → s.ph = Phase.wait.code → s.byteAt 0 ≠ 0x00#8 → s.onlyAgents = true →
    ∃ t, steps n s = .next t ∧ t.ph = Phase.wait.code ∧ t.bytes = s.bytes ∧ t.lineEn = false ∧ t.pcmd = s.pcmd ∧
      t.final = false ∧
      (s.uartInitialised = true → t.turn = .agent .producer → ∃ u, step t = .next u ∧ u.trace = t.trace ++ [0x11#8] ∧ u.ph = t.ph)
end

