-- ==== Sys2Proof/Laws/Decode.lean ====
section
/-! SUPPORT. What the command decoder can do, and how `decode(prog, pcmd)` reads the stream's list of commands. -/

namespace Sys2Proof

/-- A decoded command is a command, its message fits the length byte, and its bytes stood at the head of the stream. -/
theorem decodeCommand_ok {bs rest : List Byte} {i : Instr} (h : decodeCommand bs = .ok (i, rest)) :
    bs = encode i ++ rest ∧ i.wellFormed = true ∧ i.format = .cmd := by
  match bs with
  | [] => cases h
  | [_] => cases h
  | opc :: len :: more =>
    have payload : ∀ {build : List Byte → Instr}, withPayload build len.toNat more = .ok (i, rest) →
        ∃ m, i = build m ∧ m.length = len.toNat ∧ more = m ++ rest := by
      intro build hb
      unfold withPayload at hb
      split at hb
      · next hle =>
        cases hb
        exact ⟨more.take len.toNat, rfl, by simpa using hle, (List.take_append_drop _ _).symm⟩
      · cases hb
    have hlen : ∀ {m : List Byte}, m.length = len.toNat → BitVec.ofNat 8 m.length = len ∧ m.length ≤ 255 := by
      intro m hm
      have := len.isLt
      rw [hm]
      exact ⟨BitVec.ofNat_toNat _ _ |>.trans (by simp), by omega⟩
    simp only [decodeCommand] at h
    split at h
    · next ho =>
      split at h
      · next hl => cases h; subst ho hl; exact ⟨rfl, rfl, rfl⟩
      · cases h
    · split at h
      · next ho =>
        obtain ⟨m, rfl, hm, rfl⟩ := payload h
        obtain ⟨hl, hw⟩ := hlen hm
        subst ho
        exact ⟨by simp [encode, hl], by simpa [Instr.wellFormed] using hw, rfl⟩
      · split at h
        · next ho =>
          obtain ⟨m, rfl, hm, rfl⟩ := payload h
          obtain ⟨hl, hw⟩ := hlen hm
          subst ho
          exact ⟨by simp [encode, hl], by simpa [Instr.wellFormed] using hw, rfl⟩
        · cases h

theorem encode_command_length {i : Instr} (h : i.format = .cmd) : 2 ≤ (encode i).length := by
  cases i <;> first | (simp [encode]; done) | cases h

theorem decodeCommand_shrinks {bs rest : List Byte} {i : Instr} (h : decodeCommand bs = .ok (i, rest)) :
    rest.length < bs.length := by
  obtain ⟨hbs, -, hf⟩ := decodeCommand_ok h
  have := encode_command_length hf
  rw [hbs, List.length_append]
  omega

/-- More fuel than bytes is enough fuel. -/
theorem decodeCommands_fuel {n m : Nat} {bs : List Byte} (hn : bs.length < n) (hm : bs.length < m) :
    decodeCommands n bs = decodeCommands m bs := by
  induction n generalizing m bs with
  | zero => omega
  | succ n ih =>
    cases m with
    | zero => omega
    | succ m =>
      simp only [decodeCommands]
      split
      · rfl
      · next i rest h =>
        have := decodeCommand_shrinks h
        rw [ih (m := m) (by omega) (by omega)]

theorem decodeStream_error {bs : List Byte} {r : Reject} (h : decodeCommand bs = .error r) :
    decodeStream bs = ([], r) := by
  simp [decodeStream, decodeCommands, h]

theorem decodeStream_cons {bs rest : List Byte} {i : Instr} (h : decodeCommand bs = .ok (i, rest)) :
    decodeStream bs = (i :: (decodeStream rest).1, (decodeStream rest).2) := by
  have := decodeCommand_shrinks h
  simp only [decodeStream, decodeCommands, h]
  rw [decodeCommands_fuel (n := bs.length) (m := rest.length + 1) (by omega) (by omega)]
  rfl

/-- `decode(prog, k)` is the k-th command of the stream. -/
theorem commandAt_eq_ok {bs : List Byte} {k : Nat} {i : Instr} :
    commandAt bs k = .ok i ↔ (decodeStream bs).1[k]? = some i := by
  induction k generalizing bs with
  | zero =>
    cases h : decodeCommand bs with
    | error r => simp [commandAt, h, Except.map, decodeStream_error h]
    | ok p => obtain ⟨j, rest⟩ := p; simp [commandAt, h, Except.map, decodeStream_cons h]
  | succ k ih =>
    cases h : decodeCommand bs with
    | error r => simp [commandAt, h, decodeStream_error h]
    | ok p => obtain ⟨j, rest⟩ := p; simp [commandAt, h, decodeStream_cons h, ih]

/-- Past the last command, the command at `pcmd` is refused for what ends the stream. -/
theorem commandAt_eq_error {bs : List Byte} {k : Nat} {r : Reject} (h : commandAt bs k = .error r) :
    r = (decodeStream bs).2 := by
  induction k generalizing bs with
  | zero =>
    cases hc : decodeCommand bs with
    | ok p => rw [commandAt, hc] at h; cases h
    | error e => rw [commandAt, hc] at h; cases h; rw [decodeStream_error hc]
  | succ k ih =>
    rw [commandAt] at h
    cases hc : decodeCommand bs with
    | error e => rw [hc] at h; cases h; rw [decodeStream_error hc]
    | ok p => rw [hc] at h; rw [ih h, decodeStream_cons hc]

end Sys2Proof
end

