-- ==== Sys2Proof/Laws/Memory.lean ====
section
/-! SUPPORT. The laws of the byte storage: read after write, and every write keeps the canonical form. -/

namespace Sys2Proof.Machine

open Sys2Proof.Config

theorem read_of_rising (m : Memory) (k : Nat) (h : ∀ c ∈ m, k < c.1) : Memory.read m k = Memory.unlisted := by
  induction m with
  | nil => rfl
  | cons c m ih =>
    obtain ⟨a, b⟩ := c
    have ha : k < a := h (a, b) (by simp)
    simp only [Memory.read, if_neg (Nat.ne_of_gt ha)]
    exact ih fun c hc => h c (by simp [hc])

theorem read_write_same (m : Memory) (k : Nat) (v : Byte) (h : m.Pairwise fun x y => x.1 < y.1) :
    Memory.read (Memory.write m k v) k = v := by
  induction m with
  | nil => by_cases hv : v = Memory.unlisted <;> simp [Memory.write, Memory.read, hv]
  | cons c m ih =>
    obtain ⟨a, b⟩ := c
    rw [List.pairwise_cons] at h
    simp only [Memory.write]
    split
    · next hak => simp [Memory.read, Nat.ne_of_lt hak, ih h.2]
    · next hak =>
      by_cases hv : v = Memory.unlisted
      · simp only [hv, if_true]
        apply read_of_rising
        split
        · next he => subst he; exact h.1
        · next he =>
          have hk : k < a := by omega
          intro c hc
          rcases List.mem_cons.1 hc with rfl | hc
          · exact hk
          · exact Nat.lt_trans hk (h.1 c hc)
      · simp [hv, Memory.read]

theorem read_write_other (m : Memory) (k j : Nat) (v : Byte) (h : m.Pairwise fun x y => x.1 < y.1) (hj : j ≠ k) :
    Memory.read (Memory.write m k v) j = Memory.read m j := by
  induction m with
  | nil => by_cases hv : v = Memory.unlisted <;> simp [Memory.write, Memory.read, hv, hj.symm]
  | cons c m ih =>
    obtain ⟨a, b⟩ := c
    rw [List.pairwise_cons] at h
    simp only [Memory.write]
    split
    · simp only [Memory.read, ih h.2]
    · by_cases hak : a = k
      · subst hak
        by_cases hv : v = Memory.unlisted <;> simp [hv, Memory.read, hj.symm]
      · by_cases hv : v = Memory.unlisted <;> simp [hv, hak, Memory.read, hj.symm]

theorem mem_of_mem_write (m : Memory) (k : Nat) (v : Byte) (c : Host.Cell) (h : c ∈ Memory.write m k v) :
    c ∈ m ∨ (c = (k, v) ∧ v ≠ Memory.unlisted) := by
  induction m with
  | nil => by_cases hv : v = Memory.unlisted <;> simp_all [Memory.write]
  | cons d m ih =>
    obtain ⟨a, b⟩ := d
    simp only [Memory.write] at h
    split at h
    · rcases List.mem_cons.1 h with rfl | h
      · simp
      · rcases ih h with h | h
        · exact .inl (List.mem_cons_of_mem _ h)
        · exact .inr h
    · by_cases hv : v = Memory.unlisted <;> by_cases hak : a = k <;> simp_all <;> tauto

theorem write_rising (m : Memory) (k : Nat) (v : Byte) (h : m.Pairwise fun x y => x.1 < y.1) :
    (Memory.write m k v).Pairwise fun x y => x.1 < y.1 := by
  induction m with
  | nil => by_cases hv : v = Memory.unlisted <;> simp [Memory.write, hv]
  | cons d m ih =>
    obtain ⟨a, b⟩ := d
    rw [List.pairwise_cons] at h
    simp only [Memory.write]
    split
    · next hak =>
      refine List.pairwise_cons.2 ⟨fun c hc => ?_, ih h.2⟩
      rcases mem_of_mem_write m k v c hc with hc | ⟨rfl, -⟩
      · exact h.1 c hc
      · exact hak
    · next hak =>
      by_cases he : a = k
      · subst he
        by_cases hv : v = Memory.unlisted
        · simpa [hv] using h.2
        · simp only [if_true, hv, if_false]
          exact List.pairwise_cons.2 ⟨h.1, h.2⟩
      · have hk : k < a := by omega
        by_cases hv : v = Memory.unlisted
        · simpa [hv, he] using h
        · simp only [hv, he, if_false, List.pairwise_cons]
          refine ⟨fun c hc => ?_, h.1, h.2⟩
          rcases List.mem_cons.1 hc with rfl | hc
          · exact hk
          · exact Nat.lt_trans hk (h.1 c hc)

theorem wf_iff (m : Memory) :
    Memory.wf m = true ↔
      (m.Pairwise fun x y => x.1 < y.1) ∧ ∀ c ∈ m, c.1 < capacity ∧ c.2 ≠ Memory.unlisted := by
  simp [Memory.wf]

theorem wf_rising {m : Memory} (h : Memory.wf m = true) : m.Pairwise fun x y => x.1 < y.1 := ((wf_iff m).1 h).1

/-- Every write inside the buffer keeps the canonical form. -/
theorem write_keeps_wf {m : Memory} {k : Nat} {v : Byte} (hk : k < capacity) (h : Memory.wf m = true) :
    Memory.wf (Memory.write m k v) = true := by
  rw [wf_iff] at h ⊢
  refine ⟨write_rising m k v h.1, fun c hc => ?_⟩
  rcases mem_of_mem_write m k v c hc with hc | ⟨rfl, hv⟩
  · exact h.2 c hc
  · exact ⟨hk, hv⟩

/-- Equal reads make equal memories: the form is canonical. -/
theorem eq_of_reads {m n : Memory} (hm : Memory.wf m = true) (hn : Memory.wf n = true)
    (h : ∀ k, Memory.read m k = Memory.read n k) : m = n := by
  rw [wf_iff] at hm hn
  obtain ⟨hm, hm'⟩ := hm
  obtain ⟨hn, hn'⟩ := hn
  induction m generalizing n with
  | nil =>
    cases n with
    | nil => rfl
    | cons d n =>
      have := h d.1
      simp only [Memory.read, if_true] at this
      exact absurd this.symm (hn' d (by simp)).2
  | cons c m ih =>
    cases n with
    | nil =>
      have := h c.1
      simp only [Memory.read, if_true] at this
      exact absurd this (hm' c (by simp)).2
    | cons d n =>
      obtain ⟨a, b⟩ := c
      obtain ⟨a', b'⟩ := d
      rw [List.pairwise_cons] at hm hn
      have hlow : ∀ {p : Memory} {x y : Nat}, (∀ c ∈ p, x < c.1) → y ≤ x → Memory.read p y = Memory.unlisted :=
        fun hp hxy => read_of_rising _ _ fun c hc => Nat.lt_of_le_of_lt hxy (hp c hc)
      have hb := (hm' (a, b) (by simp)).2
      have hb' := (hn' (a', b') (by simp)).2
      have haa : a = a' := by
        rcases Nat.lt_trichotomy a a' with hlt | he | hlt
        · have h1 := h a
          simp only [Memory.read, if_true, if_neg (Nat.ne_of_gt hlt)] at h1
          rw [hlow hn.1 (Nat.le_of_lt hlt)] at h1
          exact absurd h1 hb
        · exact he
        · have h1 := h a'
          simp only [Memory.read, if_true, if_neg (Nat.ne_of_gt hlt)] at h1
          rw [hlow hm.1 (Nat.le_of_lt hlt)] at h1
          exact absurd h1.symm hb'
      subst haa
      have hbb : b = b' := by simpa [Memory.read] using h a
      subst hbb
      congr 1
      refine ih (fun k => ?_) hm.2 (fun c hc => hm' c (by simp [hc])) hn.2 (fun c hc => hn' c (by simp [hc]))
      rcases Nat.lt_or_ge a k with hk | hk
      · simpa [Memory.read, Nat.ne_of_lt hk] using h k
      · rw [hlow hm.1 hk, hlow hn.1 hk]

/-! ### The Transmit Buffer -/

theorem byteAt_setByte_same (s : State) (k : Nat) (v : Byte) (h : Memory.wf s.bytes = true) :
    (s.setByte k v).byteAt k = v := read_write_same _ _ _ (wf_rising h)

theorem byteAt_setByte_other (s : State) (k j : Nat) (v : Byte) (h : Memory.wf s.bytes = true) (hj : j ≠ k) :
    (s.setByte k v).byteAt j = s.byteAt j := read_write_other _ _ _ _ (wf_rising h) hj

theorem byteAt_setByte (s : State) (k j : Nat) (v : Byte) (h : Memory.wf s.bytes = true) :
    (s.setByte k v).byteAt j = if j = k then v else s.byteAt j := by
  split
  · next hj => subst hj; exact byteAt_setByte_same s _ v h
  · next hj => exact byteAt_setByte_other s k j v h hj

end Sys2Proof.Machine
end

