-- ==== Sys2Proof/Laws/State.lean ====
section
/-! SUPPORT. What each update leaves in each field of the state: one lemma per field per update. -/

namespace Sys2Proof.Machine

variable (s : State)

/-! ### setPh -/

@[simp] theorem setPh_bytes (p : Phase) : (State.setPh p s).bytes = s.bytes := rfl
@[simp] theorem setPh_cursor (p : Phase) : (State.setPh p s).cursor = s.cursor := rfl
@[simp] theorem setPh_locked (p : Phase) : (State.setPh p s).locked = s.locked := rfl
@[simp] theorem setPh_msg (p : Phase) : (State.setPh p s).msg = s.msg := rfl
@[simp] theorem setPh_i (p : Phase) : (State.setPh p s).i = s.i := rfl
@[simp] theorem setPh_t (p : Phase) : (State.setPh p s).t = s.t := rfl
@[simp] theorem setPh_tail (p : Phase) : (State.setPh p s).tail = s.tail := rfl
@[simp] theorem setPh_ph (p : Phase) : (State.setPh p s).ph = p.code := rfl
@[simp] theorem setPh_prog (p : Phase) : (State.setPh p s).prog = s.prog := rfl
@[simp] theorem setPh_pcmd (p : Phase) : (State.setPh p s).pcmd = s.pcmd := rfl
@[simp] theorem setPh_txFifo (p : Phase) : (State.setPh p s).txFifo = s.txFifo := rfl
@[simp] theorem setPh_wire (p : Phase) : (State.setPh p s).wire = s.wire := rfl
@[simp] theorem setPh_owed (p : Phase) : (State.setPh p s).owed = s.owed := rfl
@[simp] theorem setPh_uartIFLS (p : Phase) : (State.setPh p s).uartIFLS = s.uartIFLS := rfl
@[simp] theorem setPh_uartIMSC (p : Phase) : (State.setPh p s).uartIMSC = s.uartIMSC := rfl
@[simp] theorem setPh_uartRIS (p : Phase) : (State.setPh p s).uartRIS = s.uartRIS := rfl
@[simp] theorem setPh_uartCR (p : Phase) : (State.setPh p s).uartCR = s.uartCR := rfl
@[simp] theorem setPh_uartLCRH (p : Phase) : (State.setPh p s).uartLCRH = s.uartLCRH := rfl
@[simp] theorem setPh_uartIBRD (p : Phase) : (State.setPh p s).uartIBRD = s.uartIBRD := rfl
@[simp] theorem setPh_uartFBRD (p : Phase) : (State.setPh p s).uartFBRD = s.uartFBRD := rfl
@[simp] theorem setPh_uartFRIn (p : Phase) : (State.setPh p s).uartFRIn = s.uartFRIn := rfl
@[simp] theorem setPh_cpuIrqEn (p : Phase) : (State.setPh p s).cpuIrqEn = s.cpuIrqEn := rfl
@[simp] theorem setPh_lineEn (p : Phase) : (State.setPh p s).lineEn = s.lineEn := rfl
@[simp] theorem setPh_faults (p : Phase) : (State.setPh p s).faults = s.faults := rfl
@[simp] theorem setPh_refusals (p : Phase) : (State.setPh p s).refusals = s.refusals := rfl
@[simp] theorem setPh_params (p : Phase) : (State.setPh p s).params = s.params := rfl
@[simp] theorem setPh_turns (p : Phase) : (State.setPh p s).turns = s.turns := rfl
@[simp] theorem setPh_tick (p : Phase) : (State.setPh p s).tick = s.tick := rfl
@[simp] theorem setPh_trace (p : Phase) : (State.setPh p s).trace = s.trace := rfl

/-! ### setByte -/

@[simp] theorem setByte_bytes (k : Nat) (v : Byte) : (State.setByte k v s).bytes = Memory.write s.bytes k v := rfl
@[simp] theorem setByte_cursor (k : Nat) (v : Byte) : (State.setByte k v s).cursor = s.cursor := rfl
@[simp] theorem setByte_locked (k : Nat) (v : Byte) : (State.setByte k v s).locked = s.locked := rfl
@[simp] theorem setByte_msg (k : Nat) (v : Byte) : (State.setByte k v s).msg = s.msg := rfl
@[simp] theorem setByte_i (k : Nat) (v : Byte) : (State.setByte k v s).i = s.i := rfl
@[simp] theorem setByte_t (k : Nat) (v : Byte) : (State.setByte k v s).t = s.t := rfl
@[simp] theorem setByte_tail (k : Nat) (v : Byte) : (State.setByte k v s).tail = s.tail := rfl
@[simp] theorem setByte_ph (k : Nat) (v : Byte) : (State.setByte k v s).ph = s.ph := rfl
@[simp] theorem setByte_prog (k : Nat) (v : Byte) : (State.setByte k v s).prog = s.prog := rfl
@[simp] theorem setByte_pcmd (k : Nat) (v : Byte) : (State.setByte k v s).pcmd = s.pcmd := rfl
@[simp] theorem setByte_txFifo (k : Nat) (v : Byte) : (State.setByte k v s).txFifo = s.txFifo := rfl
@[simp] theorem setByte_wire (k : Nat) (v : Byte) : (State.setByte k v s).wire = s.wire := rfl
@[simp] theorem setByte_owed (k : Nat) (v : Byte) : (State.setByte k v s).owed = s.owed := rfl
@[simp] theorem setByte_uartIFLS (k : Nat) (v : Byte) : (State.setByte k v s).uartIFLS = s.uartIFLS := rfl
@[simp] theorem setByte_uartIMSC (k : Nat) (v : Byte) : (State.setByte k v s).uartIMSC = s.uartIMSC := rfl
@[simp] theorem setByte_uartRIS (k : Nat) (v : Byte) : (State.setByte k v s).uartRIS = s.uartRIS := rfl
@[simp] theorem setByte_uartCR (k : Nat) (v : Byte) : (State.setByte k v s).uartCR = s.uartCR := rfl
@[simp] theorem setByte_uartLCRH (k : Nat) (v : Byte) : (State.setByte k v s).uartLCRH = s.uartLCRH := rfl
@[simp] theorem setByte_uartIBRD (k : Nat) (v : Byte) : (State.setByte k v s).uartIBRD = s.uartIBRD := rfl
@[simp] theorem setByte_uartFBRD (k : Nat) (v : Byte) : (State.setByte k v s).uartFBRD = s.uartFBRD := rfl
@[simp] theorem setByte_uartFRIn (k : Nat) (v : Byte) : (State.setByte k v s).uartFRIn = s.uartFRIn := rfl
@[simp] theorem setByte_cpuIrqEn (k : Nat) (v : Byte) : (State.setByte k v s).cpuIrqEn = s.cpuIrqEn := rfl
@[simp] theorem setByte_lineEn (k : Nat) (v : Byte) : (State.setByte k v s).lineEn = s.lineEn := rfl
@[simp] theorem setByte_faults (k : Nat) (v : Byte) : (State.setByte k v s).faults = s.faults := rfl
@[simp] theorem setByte_refusals (k : Nat) (v : Byte) : (State.setByte k v s).refusals = s.refusals := rfl
@[simp] theorem setByte_params (k : Nat) (v : Byte) : (State.setByte k v s).params = s.params := rfl
@[simp] theorem setByte_turns (k : Nat) (v : Byte) : (State.setByte k v s).turns = s.turns := rfl
@[simp] theorem setByte_tick (k : Nat) (v : Byte) : (State.setByte k v s).tick = s.tick := rfl
@[simp] theorem setByte_trace (k : Nat) (v : Byte) : (State.setByte k v s).trace = s.trace := rfl

/-! ### raise -/

@[simp] theorem raise_bytes (f : Fault) : (State.raise f s).bytes = s.bytes := rfl
@[simp] theorem raise_cursor (f : Fault) : (State.raise f s).cursor = s.cursor := rfl
@[simp] theorem raise_locked (f : Fault) : (State.raise f s).locked = s.locked := rfl
@[simp] theorem raise_msg (f : Fault) : (State.raise f s).msg = s.msg := rfl
@[simp] theorem raise_i (f : Fault) : (State.raise f s).i = s.i := rfl
@[simp] theorem raise_t (f : Fault) : (State.raise f s).t = s.t := rfl
@[simp] theorem raise_tail (f : Fault) : (State.raise f s).tail = s.tail := rfl
@[simp] theorem raise_ph (f : Fault) : (State.raise f s).ph = s.ph := rfl
@[simp] theorem raise_prog (f : Fault) : (State.raise f s).prog = s.prog := rfl
@[simp] theorem raise_pcmd (f : Fault) : (State.raise f s).pcmd = s.pcmd := rfl
@[simp] theorem raise_txFifo (f : Fault) : (State.raise f s).txFifo = s.txFifo := rfl
@[simp] theorem raise_wire (f : Fault) : (State.raise f s).wire = s.wire := rfl
@[simp] theorem raise_owed (f : Fault) : (State.raise f s).owed = s.owed := rfl
@[simp] theorem raise_uartIFLS (f : Fault) : (State.raise f s).uartIFLS = s.uartIFLS := rfl
@[simp] theorem raise_uartIMSC (f : Fault) : (State.raise f s).uartIMSC = s.uartIMSC := rfl
@[simp] theorem raise_uartRIS (f : Fault) : (State.raise f s).uartRIS = s.uartRIS := rfl
@[simp] theorem raise_uartCR (f : Fault) : (State.raise f s).uartCR = s.uartCR := rfl
@[simp] theorem raise_uartLCRH (f : Fault) : (State.raise f s).uartLCRH = s.uartLCRH := rfl
@[simp] theorem raise_uartIBRD (f : Fault) : (State.raise f s).uartIBRD = s.uartIBRD := rfl
@[simp] theorem raise_uartFBRD (f : Fault) : (State.raise f s).uartFBRD = s.uartFBRD := rfl
@[simp] theorem raise_uartFRIn (f : Fault) : (State.raise f s).uartFRIn = s.uartFRIn := rfl
@[simp] theorem raise_cpuIrqEn (f : Fault) : (State.raise f s).cpuIrqEn = s.cpuIrqEn := rfl
@[simp] theorem raise_lineEn (f : Fault) : (State.raise f s).lineEn = s.lineEn := rfl
@[simp] theorem raise_faults (f : Fault) : (State.raise f s).faults = if s.faults.contains f then s.faults else s.faults ++ [f] := rfl
@[simp] theorem raise_refusals (f : Fault) : (State.raise f s).refusals = s.refusals := rfl
@[simp] theorem raise_params (f : Fault) : (State.raise f s).params = s.params := rfl
@[simp] theorem raise_turns (f : Fault) : (State.raise f s).turns = s.turns := rfl
@[simp] theorem raise_tick (f : Fault) : (State.raise f s).tick = s.tick := rfl
@[simp] theorem raise_trace (f : Fault) : (State.raise f s).trace = s.trace := rfl

/-! ### refuse -/

@[simp] theorem refuse_bytes (r : Refusal) : (State.refuse r s).bytes = s.bytes := rfl
@[simp] theorem refuse_cursor (r : Refusal) : (State.refuse r s).cursor = s.cursor := rfl
@[simp] theorem refuse_locked (r : Refusal) : (State.refuse r s).locked = s.locked := rfl
@[simp] theorem refuse_msg (r : Refusal) : (State.refuse r s).msg = s.msg := rfl
@[simp] theorem refuse_i (r : Refusal) : (State.refuse r s).i = s.i := rfl
@[simp] theorem refuse_t (r : Refusal) : (State.refuse r s).t = s.t := rfl
@[simp] theorem refuse_tail (r : Refusal) : (State.refuse r s).tail = s.tail := rfl
@[simp] theorem refuse_ph (r : Refusal) : (State.refuse r s).ph = s.ph := rfl
@[simp] theorem refuse_prog (r : Refusal) : (State.refuse r s).prog = s.prog := rfl
@[simp] theorem refuse_pcmd (r : Refusal) : (State.refuse r s).pcmd = s.pcmd := rfl
@[simp] theorem refuse_txFifo (r : Refusal) : (State.refuse r s).txFifo = s.txFifo := rfl
@[simp] theorem refuse_wire (r : Refusal) : (State.refuse r s).wire = s.wire := rfl
@[simp] theorem refuse_owed (r : Refusal) : (State.refuse r s).owed = s.owed := rfl
@[simp] theorem refuse_uartIFLS (r : Refusal) : (State.refuse r s).uartIFLS = s.uartIFLS := rfl
@[simp] theorem refuse_uartIMSC (r : Refusal) : (State.refuse r s).uartIMSC = s.uartIMSC := rfl
@[simp] theorem refuse_uartRIS (r : Refusal) : (State.refuse r s).uartRIS = s.uartRIS := rfl
@[simp] theorem refuse_uartCR (r : Refusal) : (State.refuse r s).uartCR = s.uartCR := rfl
@[simp] theorem refuse_uartLCRH (r : Refusal) : (State.refuse r s).uartLCRH = s.uartLCRH := rfl
@[simp] theorem refuse_uartIBRD (r : Refusal) : (State.refuse r s).uartIBRD = s.uartIBRD := rfl
@[simp] theorem refuse_uartFBRD (r : Refusal) : (State.refuse r s).uartFBRD = s.uartFBRD := rfl
@[simp] theorem refuse_uartFRIn (r : Refusal) : (State.refuse r s).uartFRIn = s.uartFRIn := rfl
@[simp] theorem refuse_cpuIrqEn (r : Refusal) : (State.refuse r s).cpuIrqEn = s.cpuIrqEn := rfl
@[simp] theorem refuse_lineEn (r : Refusal) : (State.refuse r s).lineEn = s.lineEn := rfl
@[simp] theorem refuse_faults (r : Refusal) : (State.refuse r s).faults = s.faults := rfl
@[simp] theorem refuse_refusals (r : Refusal) : (State.refuse r s).refusals = if s.refusals.contains r then s.refusals else s.refusals ++ [r] := rfl
@[simp] theorem refuse_params (r : Refusal) : (State.refuse r s).params = s.params := rfl
@[simp] theorem refuse_turns (r : Refusal) : (State.refuse r s).turns = s.turns := rfl
@[simp] theorem refuse_tick (r : Refusal) : (State.refuse r s).tick = s.tick := rfl
@[simp] theorem refuse_trace (r : Refusal) : (State.refuse r s).trace = s.trace := rfl

/-! ### writeICR -/

@[simp] theorem writeICR_bytes (v : Word) : (State.writeICR v s).bytes = s.bytes := rfl
@[simp] theorem writeICR_cursor (v : Word) : (State.writeICR v s).cursor = s.cursor := rfl
@[simp] theorem writeICR_locked (v : Word) : (State.writeICR v s).locked = s.locked := rfl
@[simp] theorem writeICR_msg (v : Word) : (State.writeICR v s).msg = s.msg := rfl
@[simp] theorem writeICR_i (v : Word) : (State.writeICR v s).i = s.i := rfl
@[simp] theorem writeICR_t (v : Word) : (State.writeICR v s).t = s.t := rfl
@[simp] theorem writeICR_tail (v : Word) : (State.writeICR v s).tail = s.tail := rfl
@[simp] theorem writeICR_ph (v : Word) : (State.writeICR v s).ph = s.ph := rfl
@[simp] theorem writeICR_prog (v : Word) : (State.writeICR v s).prog = s.prog := rfl
@[simp] theorem writeICR_pcmd (v : Word) : (State.writeICR v s).pcmd = s.pcmd := rfl
@[simp] theorem writeICR_txFifo (v : Word) : (State.writeICR v s).txFifo = s.txFifo := rfl
@[simp] theorem writeICR_wire (v : Word) : (State.writeICR v s).wire = s.wire := rfl
@[simp] theorem writeICR_owed (v : Word) : (State.writeICR v s).owed = s.owed := rfl
@[simp] theorem writeICR_uartIFLS (v : Word) : (State.writeICR v s).uartIFLS = s.uartIFLS := rfl
@[simp] theorem writeICR_uartIMSC (v : Word) : (State.writeICR v s).uartIMSC = s.uartIMSC := rfl
@[simp] theorem writeICR_uartRIS (v : Word) : (State.writeICR v s).uartRIS = s.uartRIS &&& ~~~(v &&& causeMask) := rfl
@[simp] theorem writeICR_uartCR (v : Word) : (State.writeICR v s).uartCR = s.uartCR := rfl
@[simp] theorem writeICR_uartLCRH (v : Word) : (State.writeICR v s).uartLCRH = s.uartLCRH := rfl
@[simp] theorem writeICR_uartIBRD (v : Word) : (State.writeICR v s).uartIBRD = s.uartIBRD := rfl
@[simp] theorem writeICR_uartFBRD (v : Word) : (State.writeICR v s).uartFBRD = s.uartFBRD := rfl
@[simp] theorem writeICR_uartFRIn (v : Word) : (State.writeICR v s).uartFRIn = s.uartFRIn := rfl
@[simp] theorem writeICR_cpuIrqEn (v : Word) : (State.writeICR v s).cpuIrqEn = s.cpuIrqEn := rfl
@[simp] theorem writeICR_lineEn (v : Word) : (State.writeICR v s).lineEn = s.lineEn := rfl
@[simp] theorem writeICR_faults (v : Word) : (State.writeICR v s).faults = s.faults := rfl
@[simp] theorem writeICR_refusals (v : Word) : (State.writeICR v s).refusals = s.refusals := rfl
@[simp] theorem writeICR_params (v : Word) : (State.writeICR v s).params = s.params := rfl
@[simp] theorem writeICR_turns (v : Word) : (State.writeICR v s).turns = s.turns := rfl
@[simp] theorem writeICR_tick (v : Word) : (State.writeICR v s).tick = s.tick := rfl
@[simp] theorem writeICR_trace (v : Word) : (State.writeICR v s).trace = s.trace := rfl

/-! ### writeIMSC -/

@[simp] theorem writeIMSC_bytes (v : Word) : (State.writeIMSC v s).bytes = s.bytes := rfl
@[simp] theorem writeIMSC_cursor (v : Word) : (State.writeIMSC v s).cursor = s.cursor := rfl
@[simp] theorem writeIMSC_locked (v : Word) : (State.writeIMSC v s).locked = s.locked := rfl
@[simp] theorem writeIMSC_msg (v : Word) : (State.writeIMSC v s).msg = s.msg := rfl
@[simp] theorem writeIMSC_i (v : Word) : (State.writeIMSC v s).i = s.i := rfl
@[simp] theorem writeIMSC_t (v : Word) : (State.writeIMSC v s).t = s.t := rfl
@[simp] theorem writeIMSC_tail (v : Word) : (State.writeIMSC v s).tail = s.tail := rfl
@[simp] theorem writeIMSC_ph (v : Word) : (State.writeIMSC v s).ph = s.ph := rfl
@[simp] theorem writeIMSC_prog (v : Word) : (State.writeIMSC v s).prog = s.prog := rfl
@[simp] theorem writeIMSC_pcmd (v : Word) : (State.writeIMSC v s).pcmd = s.pcmd := rfl
@[simp] theorem writeIMSC_txFifo (v : Word) : (State.writeIMSC v s).txFifo = s.txFifo := rfl
@[simp] theorem writeIMSC_wire (v : Word) : (State.writeIMSC v s).wire = s.wire := rfl
@[simp] theorem writeIMSC_owed (v : Word) : (State.writeIMSC v s).owed = s.owed := rfl
@[simp] theorem writeIMSC_uartIFLS (v : Word) : (State.writeIMSC v s).uartIFLS = s.uartIFLS := rfl
@[simp] theorem writeIMSC_uartIMSC (v : Word) : (State.writeIMSC v s).uartIMSC = v &&& causeMask := rfl
@[simp] theorem writeIMSC_uartRIS (v : Word) : (State.writeIMSC v s).uartRIS = s.uartRIS := rfl
@[simp] theorem writeIMSC_uartCR (v : Word) : (State.writeIMSC v s).uartCR = s.uartCR := rfl
@[simp] theorem writeIMSC_uartLCRH (v : Word) : (State.writeIMSC v s).uartLCRH = s.uartLCRH := rfl
@[simp] theorem writeIMSC_uartIBRD (v : Word) : (State.writeIMSC v s).uartIBRD = s.uartIBRD := rfl
@[simp] theorem writeIMSC_uartFBRD (v : Word) : (State.writeIMSC v s).uartFBRD = s.uartFBRD := rfl
@[simp] theorem writeIMSC_uartFRIn (v : Word) : (State.writeIMSC v s).uartFRIn = s.uartFRIn := rfl
@[simp] theorem writeIMSC_cpuIrqEn (v : Word) : (State.writeIMSC v s).cpuIrqEn = s.cpuIrqEn := rfl
@[simp] theorem writeIMSC_lineEn (v : Word) : (State.writeIMSC v s).lineEn = s.lineEn := rfl
@[simp] theorem writeIMSC_faults (v : Word) : (State.writeIMSC v s).faults = s.faults := rfl
@[simp] theorem writeIMSC_refusals (v : Word) : (State.writeIMSC v s).refusals = s.refusals := rfl
@[simp] theorem writeIMSC_params (v : Word) : (State.writeIMSC v s).params = s.params := rfl
@[simp] theorem writeIMSC_turns (v : Word) : (State.writeIMSC v s).turns = s.turns := rfl
@[simp] theorem writeIMSC_tick (v : Word) : (State.writeIMSC v s).tick = s.tick := rfl
@[simp] theorem writeIMSC_trace (v : Word) : (State.writeIMSC v s).trace = s.trace := rfl

/-! ### setTxRIS -/

@[simp] theorem setTxRIS_bytes : (State.setTxRIS s).bytes = s.bytes := rfl
@[simp] theorem setTxRIS_cursor : (State.setTxRIS s).cursor = s.cursor := rfl
@[simp] theorem setTxRIS_locked : (State.setTxRIS s).locked = s.locked := rfl
@[simp] theorem setTxRIS_msg : (State.setTxRIS s).msg = s.msg := rfl
@[simp] theorem setTxRIS_i : (State.setTxRIS s).i = s.i := rfl
@[simp] theorem setTxRIS_t : (State.setTxRIS s).t = s.t := rfl
@[simp] theorem setTxRIS_tail : (State.setTxRIS s).tail = s.tail := rfl
@[simp] theorem setTxRIS_ph : (State.setTxRIS s).ph = s.ph := rfl
@[simp] theorem setTxRIS_prog : (State.setTxRIS s).prog = s.prog := rfl
@[simp] theorem setTxRIS_pcmd : (State.setTxRIS s).pcmd = s.pcmd := rfl
@[simp] theorem setTxRIS_txFifo : (State.setTxRIS s).txFifo = s.txFifo := rfl
@[simp] theorem setTxRIS_wire : (State.setTxRIS s).wire = s.wire := rfl
@[simp] theorem setTxRIS_owed : (State.setTxRIS s).owed = s.owed := rfl
@[simp] theorem setTxRIS_uartIFLS : (State.setTxRIS s).uartIFLS = s.uartIFLS := rfl
@[simp] theorem setTxRIS_uartIMSC : (State.setTxRIS s).uartIMSC = s.uartIMSC := rfl
@[simp] theorem setTxRIS_uartRIS : (State.setTxRIS s).uartRIS = s.uartRIS ||| txCause := rfl
@[simp] theorem setTxRIS_uartCR : (State.setTxRIS s).uartCR = s.uartCR := rfl
@[simp] theorem setTxRIS_uartLCRH : (State.setTxRIS s).uartLCRH = s.uartLCRH := rfl
@[simp] theorem setTxRIS_uartIBRD : (State.setTxRIS s).uartIBRD = s.uartIBRD := rfl
@[simp] theorem setTxRIS_uartFBRD : (State.setTxRIS s).uartFBRD = s.uartFBRD := rfl
@[simp] theorem setTxRIS_uartFRIn : (State.setTxRIS s).uartFRIn = s.uartFRIn := rfl
@[simp] theorem setTxRIS_cpuIrqEn : (State.setTxRIS s).cpuIrqEn = s.cpuIrqEn := rfl
@[simp] theorem setTxRIS_lineEn : (State.setTxRIS s).lineEn = s.lineEn := rfl
@[simp] theorem setTxRIS_faults : (State.setTxRIS s).faults = s.faults := rfl
@[simp] theorem setTxRIS_refusals : (State.setTxRIS s).refusals = s.refusals := rfl
@[simp] theorem setTxRIS_params : (State.setTxRIS s).params = s.params := rfl
@[simp] theorem setTxRIS_turns : (State.setTxRIS s).turns = s.turns := rfl
@[simp] theorem setTxRIS_tick : (State.setTxRIS s).tick = s.tick := rfl
@[simp] theorem setTxRIS_trace : (State.setTxRIS s).trace = s.trace := rfl

/-! ### setRxRIS -/

@[simp] theorem setRxRIS_bytes : (State.setRxRIS s).bytes = s.bytes := rfl
@[simp] theorem setRxRIS_cursor : (State.setRxRIS s).cursor = s.cursor := rfl
@[simp] theorem setRxRIS_locked : (State.setRxRIS s).locked = s.locked := rfl
@[simp] theorem setRxRIS_msg : (State.setRxRIS s).msg = s.msg := rfl
@[simp] theorem setRxRIS_i : (State.setRxRIS s).i = s.i := rfl
@[simp] theorem setRxRIS_t : (State.setRxRIS s).t = s.t := rfl
@[simp] theorem setRxRIS_tail : (State.setRxRIS s).tail = s.tail := rfl
@[simp] theorem setRxRIS_ph : (State.setRxRIS s).ph = s.ph := rfl
@[simp] theorem setRxRIS_prog : (State.setRxRIS s).prog = s.prog := rfl
@[simp] theorem setRxRIS_pcmd : (State.setRxRIS s).pcmd = s.pcmd := rfl
@[simp] theorem setRxRIS_txFifo : (State.setRxRIS s).txFifo = s.txFifo := rfl
@[simp] theorem setRxRIS_wire : (State.setRxRIS s).wire = s.wire := rfl
@[simp] theorem setRxRIS_owed : (State.setRxRIS s).owed = s.owed := rfl
@[simp] theorem setRxRIS_uartIFLS : (State.setRxRIS s).uartIFLS = s.uartIFLS := rfl
@[simp] theorem setRxRIS_uartIMSC : (State.setRxRIS s).uartIMSC = s.uartIMSC := rfl
@[simp] theorem setRxRIS_uartRIS : (State.setRxRIS s).uartRIS = s.uartRIS ||| rxCause := rfl
@[simp] theorem setRxRIS_uartCR : (State.setRxRIS s).uartCR = s.uartCR := rfl
@[simp] theorem setRxRIS_uartLCRH : (State.setRxRIS s).uartLCRH = s.uartLCRH := rfl
@[simp] theorem setRxRIS_uartIBRD : (State.setRxRIS s).uartIBRD = s.uartIBRD := rfl
@[simp] theorem setRxRIS_uartFBRD : (State.setRxRIS s).uartFBRD = s.uartFBRD := rfl
@[simp] theorem setRxRIS_uartFRIn : (State.setRxRIS s).uartFRIn = s.uartFRIn := rfl
@[simp] theorem setRxRIS_cpuIrqEn : (State.setRxRIS s).cpuIrqEn = s.cpuIrqEn := rfl
@[simp] theorem setRxRIS_lineEn : (State.setRxRIS s).lineEn = s.lineEn := rfl
@[simp] theorem setRxRIS_faults : (State.setRxRIS s).faults = s.faults := rfl
@[simp] theorem setRxRIS_refusals : (State.setRxRIS s).refusals = s.refusals := rfl
@[simp] theorem setRxRIS_params : (State.setRxRIS s).params = s.params := rfl
@[simp] theorem setRxRIS_turns : (State.setRxRIS s).turns = s.turns := rfl
@[simp] theorem setRxRIS_tick : (State.setRxRIS s).tick = s.tick := rfl
@[simp] theorem setRxRIS_trace : (State.setRxRIS s).trace = s.trace := rfl

/-! ### enableLine -/

@[simp] theorem enableLine_bytes (n : Nat) : (enableLine n s).bytes = s.bytes := rfl
@[simp] theorem enableLine_cursor (n : Nat) : (enableLine n s).cursor = s.cursor := rfl
@[simp] theorem enableLine_locked (n : Nat) : (enableLine n s).locked = s.locked := rfl
@[simp] theorem enableLine_msg (n : Nat) : (enableLine n s).msg = s.msg := rfl
@[simp] theorem enableLine_i (n : Nat) : (enableLine n s).i = s.i := rfl
@[simp] theorem enableLine_t (n : Nat) : (enableLine n s).t = s.t := rfl
@[simp] theorem enableLine_tail (n : Nat) : (enableLine n s).tail = s.tail := rfl
@[simp] theorem enableLine_ph (n : Nat) : (enableLine n s).ph = s.ph := rfl
@[simp] theorem enableLine_prog (n : Nat) : (enableLine n s).prog = s.prog := rfl
@[simp] theorem enableLine_pcmd (n : Nat) : (enableLine n s).pcmd = s.pcmd := rfl
@[simp] theorem enableLine_txFifo (n : Nat) : (enableLine n s).txFifo = s.txFifo := rfl
@[simp] theorem enableLine_wire (n : Nat) : (enableLine n s).wire = s.wire := rfl
@[simp] theorem enableLine_owed (n : Nat) : (enableLine n s).owed = s.owed := rfl
@[simp] theorem enableLine_uartIFLS (n : Nat) : (enableLine n s).uartIFLS = s.uartIFLS := rfl
@[simp] theorem enableLine_uartIMSC (n : Nat) : (enableLine n s).uartIMSC = s.uartIMSC := rfl
@[simp] theorem enableLine_uartRIS (n : Nat) : (enableLine n s).uartRIS = s.uartRIS := rfl
@[simp] theorem enableLine_uartCR (n : Nat) : (enableLine n s).uartCR = s.uartCR := rfl
@[simp] theorem enableLine_uartLCRH (n : Nat) : (enableLine n s).uartLCRH = s.uartLCRH := rfl
@[simp] theorem enableLine_uartIBRD (n : Nat) : (enableLine n s).uartIBRD = s.uartIBRD := rfl
@[simp] theorem enableLine_uartFBRD (n : Nat) : (enableLine n s).uartFBRD = s.uartFBRD := rfl
@[simp] theorem enableLine_uartFRIn (n : Nat) : (enableLine n s).uartFRIn = s.uartFRIn := rfl
@[simp] theorem enableLine_cpuIrqEn (n : Nat) : (enableLine n s).cpuIrqEn = s.cpuIrqEn := rfl
@[simp] theorem enableLine_lineEn (n : Nat) : (enableLine n s).lineEn = true := rfl
@[simp] theorem enableLine_faults (n : Nat) : (enableLine n s).faults = s.faults := rfl
@[simp] theorem enableLine_refusals (n : Nat) : (enableLine n s).refusals = s.refusals := rfl
@[simp] theorem enableLine_params (n : Nat) : (enableLine n s).params = s.params := rfl
@[simp] theorem enableLine_turns (n : Nat) : (enableLine n s).turns = s.turns := rfl
@[simp] theorem enableLine_tick (n : Nat) : (enableLine n s).tick = s.tick := rfl
@[simp] theorem enableLine_trace (n : Nat) : (enableLine n s).trace = s.trace := rfl

/-! ### writeDR -/

@[simp] theorem writeDR_bytes (w : Writer) (v : Word) : (State.writeDR w v s).bytes = s.bytes := by unfold State.writeDR; split <;> rfl
@[simp] theorem writeDR_cursor (w : Writer) (v : Word) : (State.writeDR w v s).cursor = s.cursor := by unfold State.writeDR; split <;> rfl
@[simp] theorem writeDR_locked (w : Writer) (v : Word) : (State.writeDR w v s).locked = s.locked := by unfold State.writeDR; split <;> rfl
@[simp] theorem writeDR_msg (w : Writer) (v : Word) : (State.writeDR w v s).msg = s.msg := by unfold State.writeDR; split <;> rfl
@[simp] theorem writeDR_i (w : Writer) (v : Word) : (State.writeDR w v s).i = s.i := by unfold State.writeDR; split <;> rfl
@[simp] theorem writeDR_t (w : Writer) (v : Word) : (State.writeDR w v s).t = s.t := by unfold State.writeDR; split <;> rfl
@[simp] theorem writeDR_tail (w : Writer) (v : Word) : (State.writeDR w v s).tail = s.tail := by unfold State.writeDR; split <;> rfl
@[simp] theorem writeDR_ph (w : Writer) (v : Word) : (State.writeDR w v s).ph = s.ph := by unfold State.writeDR; split <;> rfl
@[simp] theorem writeDR_prog (w : Writer) (v : Word) : (State.writeDR w v s).prog = s.prog := by unfold State.writeDR; split <;> rfl
@[simp] theorem writeDR_pcmd (w : Writer) (v : Word) : (State.writeDR w v s).pcmd = s.pcmd := by unfold State.writeDR; split <;> rfl
@[simp] theorem writeDR_wire (w : Writer) (v : Word) : (State.writeDR w v s).wire = s.wire := by unfold State.writeDR; split <;> rfl
@[simp] theorem writeDR_uartIFLS (w : Writer) (v : Word) : (State.writeDR w v s).uartIFLS = s.uartIFLS := by unfold State.writeDR; split <;> rfl
@[simp] theorem writeDR_uartIMSC (w : Writer) (v : Word) : (State.writeDR w v s).uartIMSC = s.uartIMSC := by unfold State.writeDR; split <;> rfl
@[simp] theorem writeDR_uartRIS (w : Writer) (v : Word) : (State.writeDR w v s).uartRIS = s.uartRIS := by unfold State.writeDR; split <;> rfl
@[simp] theorem writeDR_uartCR (w : Writer) (v : Word) : (State.writeDR w v s).uartCR = s.uartCR := by unfold State.writeDR; split <;> rfl
@[simp] theorem writeDR_uartLCRH (w : Writer) (v : Word) : (State.writeDR w v s).uartLCRH = s.uartLCRH := by unfold State.writeDR; split <;> rfl
@[simp] theorem writeDR_uartIBRD (w : Writer) (v : Word) : (State.writeDR w v s).uartIBRD = s.uartIBRD := by unfold State.writeDR; split <;> rfl
@[simp] theorem writeDR_uartFBRD (w : Writer) (v : Word) : (State.writeDR w v s).uartFBRD = s.uartFBRD := by unfold State.writeDR; split <;> rfl
@[simp] theorem writeDR_uartFRIn (w : Writer) (v : Word) : (State.writeDR w v s).uartFRIn = s.uartFRIn := by unfold State.writeDR; split <;> rfl
@[simp] theorem writeDR_cpuIrqEn (w : Writer) (v : Word) : (State.writeDR w v s).cpuIrqEn = s.cpuIrqEn := by unfold State.writeDR; split <;> rfl
@[simp] theorem writeDR_lineEn (w : Writer) (v : Word) : (State.writeDR w v s).lineEn = s.lineEn := by unfold State.writeDR; split <;> rfl
@[simp] theorem writeDR_refusals (w : Writer) (v : Word) : (State.writeDR w v s).refusals = s.refusals := by unfold State.writeDR; split <;> rfl
@[simp] theorem writeDR_params (w : Writer) (v : Word) : (State.writeDR w v s).params = s.params := by unfold State.writeDR; split <;> rfl
@[simp] theorem writeDR_turns (w : Writer) (v : Word) : (State.writeDR w v s).turns = s.turns := by unfold State.writeDR; split <;> rfl
@[simp] theorem writeDR_tick (w : Writer) (v : Word) : (State.writeDR w v s).tick = s.tick := by unfold State.writeDR; split <;> rfl
@[simp] theorem writeDR_trace (w : Writer) (v : Word) : (State.writeDR w v s).trace = s.trace := by unfold State.writeDR; split <;> rfl

/-! ### writeIFLS -/

@[simp] theorem writeIFLS_bytes (v : Word) : (State.writeIFLS v s).bytes = s.bytes := by unfold State.writeIFLS; split <;> rfl
@[simp] theorem writeIFLS_cursor (v : Word) : (State.writeIFLS v s).cursor = s.cursor := by unfold State.writeIFLS; split <;> rfl
@[simp] theorem writeIFLS_locked (v : Word) : (State.writeIFLS v s).locked = s.locked := by unfold State.writeIFLS; split <;> rfl
@[simp] theorem writeIFLS_msg (v : Word) : (State.writeIFLS v s).msg = s.msg := by unfold State.writeIFLS; split <;> rfl
@[simp] theorem writeIFLS_i (v : Word) : (State.writeIFLS v s).i = s.i := by unfold State.writeIFLS; split <;> rfl
@[simp] theorem writeIFLS_t (v : Word) : (State.writeIFLS v s).t = s.t := by unfold State.writeIFLS; split <;> rfl
@[simp] theorem writeIFLS_tail (v : Word) : (State.writeIFLS v s).tail = s.tail := by unfold State.writeIFLS; split <;> rfl
@[simp] theorem writeIFLS_ph (v : Word) : (State.writeIFLS v s).ph = s.ph := by unfold State.writeIFLS; split <;> rfl
@[simp] theorem writeIFLS_prog (v : Word) : (State.writeIFLS v s).prog = s.prog := by unfold State.writeIFLS; split <;> rfl
@[simp] theorem writeIFLS_pcmd (v : Word) : (State.writeIFLS v s).pcmd = s.pcmd := by unfold State.writeIFLS; split <;> rfl
@[simp] theorem writeIFLS_txFifo (v : Word) : (State.writeIFLS v s).txFifo = s.txFifo := by unfold State.writeIFLS; split <;> rfl
@[simp] theorem writeIFLS_wire (v : Word) : (State.writeIFLS v s).wire = s.wire := by unfold State.writeIFLS; split <;> rfl
@[simp] theorem writeIFLS_owed (v : Word) : (State.writeIFLS v s).owed = s.owed := by unfold State.writeIFLS; split <;> rfl
@[simp] theorem writeIFLS_uartIMSC (v : Word) : (State.writeIFLS v s).uartIMSC = s.uartIMSC := by unfold State.writeIFLS; split <;> rfl
@[simp] theorem writeIFLS_uartRIS (v : Word) : (State.writeIFLS v s).uartRIS = s.uartRIS := by unfold State.writeIFLS; split <;> rfl
@[simp] theorem writeIFLS_uartCR (v : Word) : (State.writeIFLS v s).uartCR = s.uartCR := by unfold State.writeIFLS; split <;> rfl
@[simp] theorem writeIFLS_uartLCRH (v : Word) : (State.writeIFLS v s).uartLCRH = s.uartLCRH := by unfold State.writeIFLS; split <;> rfl
@[simp] theorem writeIFLS_uartIBRD (v : Word) : (State.writeIFLS v s).uartIBRD = s.uartIBRD := by unfold State.writeIFLS; split <;> rfl
@[simp] theorem writeIFLS_uartFBRD (v : Word) : (State.writeIFLS v s).uartFBRD = s.uartFBRD := by unfold State.writeIFLS; split <;> rfl
@[simp] theorem writeIFLS_uartFRIn (v : Word) : (State.writeIFLS v s).uartFRIn = s.uartFRIn := by unfold State.writeIFLS; split <;> rfl
@[simp] theorem writeIFLS_cpuIrqEn (v : Word) : (State.writeIFLS v s).cpuIrqEn = s.cpuIrqEn := by unfold State.writeIFLS; split <;> rfl
@[simp] theorem writeIFLS_lineEn (v : Word) : (State.writeIFLS v s).lineEn = s.lineEn := by unfold State.writeIFLS; split <;> rfl
@[simp] theorem writeIFLS_faults (v : Word) : (State.writeIFLS v s).faults = s.faults := by unfold State.writeIFLS; split <;> rfl
@[simp] theorem writeIFLS_params (v : Word) : (State.writeIFLS v s).params = s.params := by unfold State.writeIFLS; split <;> rfl
@[simp] theorem writeIFLS_turns (v : Word) : (State.writeIFLS v s).turns = s.turns := by unfold State.writeIFLS; split <;> rfl
@[simp] theorem writeIFLS_tick (v : Word) : (State.writeIFLS v s).tick = s.tick := by unfold State.writeIFLS; split <;> rfl
@[simp] theorem writeIFLS_trace (v : Word) : (State.writeIFLS v s).trace = s.trace := by unfold State.writeIFLS; split <;> rfl

/-! ### passTurn -/

@[simp] theorem passTurn_bytes : (State.passTurn s).bytes = s.bytes := by unfold State.passTurn; split <;> rfl
@[simp] theorem passTurn_cursor : (State.passTurn s).cursor = s.cursor := by unfold State.passTurn; split <;> rfl
@[simp] theorem passTurn_locked : (State.passTurn s).locked = s.locked := by unfold State.passTurn; split <;> rfl
@[simp] theorem passTurn_msg : (State.passTurn s).msg = s.msg := by unfold State.passTurn; split <;> rfl
@[simp] theorem passTurn_i : (State.passTurn s).i = s.i := by unfold State.passTurn; split <;> rfl
@[simp] theorem passTurn_t : (State.passTurn s).t = s.t := by unfold State.passTurn; split <;> rfl
@[simp] theorem passTurn_tail : (State.passTurn s).tail = s.tail := by unfold State.passTurn; split <;> rfl
@[simp] theorem passTurn_ph : (State.passTurn s).ph = s.ph := by unfold State.passTurn; split <;> rfl
@[simp] theorem passTurn_prog : (State.passTurn s).prog = s.prog := by unfold State.passTurn; split <;> rfl
@[simp] theorem passTurn_pcmd : (State.passTurn s).pcmd = s.pcmd := by unfold State.passTurn; split <;> rfl
@[simp] theorem passTurn_txFifo : (State.passTurn s).txFifo = s.txFifo := by unfold State.passTurn; split <;> rfl
@[simp] theorem passTurn_wire : (State.passTurn s).wire = s.wire := by unfold State.passTurn; split <;> rfl
@[simp] theorem passTurn_owed : (State.passTurn s).owed = s.owed := by unfold State.passTurn; split <;> rfl
@[simp] theorem passTurn_uartIFLS : (State.passTurn s).uartIFLS = s.uartIFLS := by unfold State.passTurn; split <;> rfl
@[simp] theorem passTurn_uartIMSC : (State.passTurn s).uartIMSC = s.uartIMSC := by unfold State.passTurn; split <;> rfl
@[simp] theorem passTurn_uartRIS : (State.passTurn s).uartRIS = s.uartRIS := by unfold State.passTurn; split <;> rfl
@[simp] theorem passTurn_uartCR : (State.passTurn s).uartCR = s.uartCR := by unfold State.passTurn; split <;> rfl
@[simp] theorem passTurn_uartLCRH : (State.passTurn s).uartLCRH = s.uartLCRH := by unfold State.passTurn; split <;> rfl
@[simp] theorem passTurn_uartIBRD : (State.passTurn s).uartIBRD = s.uartIBRD := by unfold State.passTurn; split <;> rfl
@[simp] theorem passTurn_uartFBRD : (State.passTurn s).uartFBRD = s.uartFBRD := by unfold State.passTurn; split <;> rfl
@[simp] theorem passTurn_uartFRIn : (State.passTurn s).uartFRIn = s.uartFRIn := by unfold State.passTurn; split <;> rfl
@[simp] theorem passTurn_cpuIrqEn : (State.passTurn s).cpuIrqEn = s.cpuIrqEn := by unfold State.passTurn; split <;> rfl
@[simp] theorem passTurn_lineEn : (State.passTurn s).lineEn = s.lineEn := by unfold State.passTurn; split <;> rfl
@[simp] theorem passTurn_faults : (State.passTurn s).faults = s.faults := by unfold State.passTurn; split <;> rfl
@[simp] theorem passTurn_refusals : (State.passTurn s).refusals = s.refusals := by unfold State.passTurn; split <;> rfl
@[simp] theorem passTurn_params : (State.passTurn s).params = s.params := by unfold State.passTurn; split <;> rfl
@[simp] theorem passTurn_trace : (State.passTurn s).trace = s.trace := by unfold State.passTurn; split <;> rfl

/-! ### record -/

@[simp] theorem record_bytes (j : Instr) : (State.record j s).bytes = s.bytes := by unfold State.record; split <;> rfl
@[simp] theorem record_cursor (j : Instr) : (State.record j s).cursor = s.cursor := by unfold State.record; split <;> rfl
@[simp] theorem record_locked (j : Instr) : (State.record j s).locked = s.locked := by unfold State.record; split <;> rfl
@[simp] theorem record_msg (j : Instr) : (State.record j s).msg = s.msg := by unfold State.record; split <;> rfl
@[simp] theorem record_i (j : Instr) : (State.record j s).i = s.i := by unfold State.record; split <;> rfl
@[simp] theorem record_t (j : Instr) : (State.record j s).t = s.t := by unfold State.record; split <;> rfl
@[simp] theorem record_tail (j : Instr) : (State.record j s).tail = s.tail := by unfold State.record; split <;> rfl
@[simp] theorem record_ph (j : Instr) : (State.record j s).ph = s.ph := by unfold State.record; split <;> rfl
@[simp] theorem record_prog (j : Instr) : (State.record j s).prog = s.prog := by unfold State.record; split <;> rfl
@[simp] theorem record_pcmd (j : Instr) : (State.record j s).pcmd = s.pcmd := by unfold State.record; split <;> rfl
@[simp] theorem record_txFifo (j : Instr) : (State.record j s).txFifo = s.txFifo := by unfold State.record; split <;> rfl
@[simp] theorem record_wire (j : Instr) : (State.record j s).wire = s.wire := by unfold State.record; split <;> rfl
@[simp] theorem record_owed (j : Instr) : (State.record j s).owed = s.owed := by unfold State.record; split <;> rfl
@[simp] theorem record_uartIFLS (j : Instr) : (State.record j s).uartIFLS = s.uartIFLS := by unfold State.record; split <;> rfl
@[simp] theorem record_uartIMSC (j : Instr) : (State.record j s).uartIMSC = s.uartIMSC := by unfold State.record; split <;> rfl
@[simp] theorem record_uartRIS (j : Instr) : (State.record j s).uartRIS = s.uartRIS := by unfold State.record; split <;> rfl
@[simp] theorem record_uartCR (j : Instr) : (State.record j s).uartCR = s.uartCR := by unfold State.record; split <;> rfl
@[simp] theorem record_uartLCRH (j : Instr) : (State.record j s).uartLCRH = s.uartLCRH := by unfold State.record; split <;> rfl
@[simp] theorem record_uartIBRD (j : Instr) : (State.record j s).uartIBRD = s.uartIBRD := by unfold State.record; split <;> rfl
@[simp] theorem record_uartFBRD (j : Instr) : (State.record j s).uartFBRD = s.uartFBRD := by unfold State.record; split <;> rfl
@[simp] theorem record_uartFRIn (j : Instr) : (State.record j s).uartFRIn = s.uartFRIn := by unfold State.record; split <;> rfl
@[simp] theorem record_cpuIrqEn (j : Instr) : (State.record j s).cpuIrqEn = s.cpuIrqEn := by unfold State.record; split <;> rfl
@[simp] theorem record_lineEn (j : Instr) : (State.record j s).lineEn = s.lineEn := by unfold State.record; split <;> rfl
@[simp] theorem record_faults (j : Instr) : (State.record j s).faults = s.faults := by unfold State.record; split <;> rfl
@[simp] theorem record_refusals (j : Instr) : (State.record j s).refusals = s.refusals := by unfold State.record; split <;> rfl
@[simp] theorem record_params (j : Instr) : (State.record j s).params = s.params := by unfold State.record; split <;> rfl
@[simp] theorem record_turns (j : Instr) : (State.record j s).turns = s.turns := by unfold State.record; split <;> rfl
@[simp] theorem record_tick (j : Instr) : (State.record j s).tick = s.tick := by unfold State.record; split <;> rfl

end Sys2Proof.Machine
end

