-- ==== Sys2Proof/Laws/Ops.lean ====
section
/-! SUPPORT. One lemma for each shared operation, saying once everything it can do. -/

namespace Sys2Proof.Machine

open Sys2Proof.Config

variable (s : State)

/-! ### Sequencing -/

@[simp] theorem thenDo_next (f : State → Result) : thenDo (.next s) f = f s := rfl

@[simp] theorem thenDo_fault (e : Fault) (f : State → Result) : thenDo (.fault e) f = .fault e := rfl

@[simp] theorem thenDo_refused (e : Refusal) (f : State → Result) : thenDo (.refused e) f = .refused e := rfl

@[simp] theorem require_true (body : State → Result) : require true body s = body s := rfl

@[simp] theorem require_false (body : State → Result) : require false body s = .next s := rfl

theorem storeByte_inside {k : Nat} (v : Byte) (h : k < capacity) : storeByte k v s = .next (s.setByte k v) := if_pos h

theorem storeByte_outside {k : Nat} (v : Byte) (h : ¬ k < capacity) : storeByte k v s = .fault (.bufferOffset k) :=
  if_neg h

/-! ### Phases -/

theorem atPhase_iff (p : Phase) : s.atPhase p = true ↔ s.ph = p.code := by simp [State.atPhase]

theorem code_injective {p q : Phase} (h : p.code = q.code) : p = q := by
  revert h; cases p <;> cases q <;> decide

theorem ofCode_code (p : Phase) : Phase.ofCode p.code = some p := by cases p <;> rfl

theorem atPhase_of_ph {p q : Phase} (h : s.ph = p.code) : s.atPhase q = decide (p = q) := by
  cases p <;> cases q <;> simp [State.atPhase, h, Phase.code]

@[simp] theorem atPhase_setPh (p q : Phase) : (s.setPh p).atPhase q = decide (p = q) :=
  atPhase_of_ph _ (setPh_ph s p)

/-! ### Register writes -/

theorem base_add_sub (b off : Word) : b + off - b = off := by
  rw [BitVec.add_comm, BitVec.add_sub_cancel]

@[simp] theorem memWrite_dr (w : Writer) (v : Word) :
    memWrite w (s.params.uartBase + 0x000#32) 4 v s = .next (s.writeDR w v) := by
  simp only [memWrite, base_add_sub]; rfl

@[simp] theorem memWrite_ifls (w : Writer) (v : Word) :
    memWrite w (s.params.uartBase + 0x034#32) 4 v s = .next (s.writeIFLS v) := by
  simp only [memWrite, base_add_sub]; rfl

@[simp] theorem memWrite_imsc (w : Writer) (v : Word) :
    memWrite w (s.params.uartBase + 0x038#32) 4 v s = .next (s.writeIMSC v) := by
  simp only [memWrite, base_add_sub]; rfl

@[simp] theorem memWrite_icr (w : Writer) (v : Word) :
    memWrite w (s.params.uartBase + 0x044#32) 4 v s = .next (s.writeICR v) := by
  simp only [memWrite, base_add_sub]; rfl

@[simp] theorem ack_eq : ack s = .next (s.writeICR txCause) := memWrite_icr s _ _

theorem drainInvocation_eq (outcome : State → Result) :
    drainInvocation outcome s = outcome (s.writeICR txCause) := by
  simp only [drainInvocation, enterInterrupt, ack_eq, thenDo_next, returnFromInterrupt]
  cases outcome (s.writeICR txCause) <;> rfl

/-- What a UARTDR write does (R123, R124). -/
theorem writeDR_cases (w : Writer) (v : Word) :
    (s.txFifo.length = txFifoDepth ∧ s.writeDR w v = s.raise (.txOverflow (v.extractLsb' 0 8) w)) ∨
    (s.txFifo.length ≠ txFifoDepth ∧
      s.writeDR w v = { s with txFifo := s.txFifo ++ [v.extractLsb' 0 8], owed := s.owed + 1 }) := by
  by_cases h : s.txFifo.length = txFifoDepth
  · exact .inl ⟨h, if_pos h⟩
  · exact .inr ⟨h, if_neg h⟩

@[simp] theorem extract_drValue (b : Byte) : (drValue b).extractLsb' 0 8 = b := by
  ext k hk
  simp [drValue, BitVec.getLsbD_eq_getElem hk]
  omega

theorem writeIFLS_ifls : s.writeIFLS iflsValue = { s with uartIFLS := iflsValue } := rfl

/-! ### Views that an update keeps -/

@[simp] theorem byteAt_writeICR (v : Word) (k : Nat) : (s.writeICR v).byteAt k = s.byteAt k := rfl

@[simp] theorem byteAt_setPh (p : Phase) (k : Nat) : (s.setPh p).byteAt k = s.byteAt k := rfl

@[simp] theorem byteAt_writeDR (w : Writer) (v : Word) (k : Nat) : (s.writeDR w v).byteAt k = s.byteAt k := by
  simp [State.byteAt]

@[simp] theorem byteAt_raise (f : Fault) (k : Nat) : (s.raise f).byteAt k = s.byteAt k := rfl

@[simp] theorem byteAt_refuse (r : Refusal) (k : Nat) : (s.refuse r).byteAt k = s.byteAt k := rfl

@[simp] theorem byteAt_passTurn (k : Nat) : s.passTurn.byteAt k = s.byteAt k := by simp [State.byteAt]

@[simp] theorem byteAt_record (j : Instr) (k : Nat) : (s.record j).byteAt k = s.byteAt k := by simp [State.byteAt]

/-! ### The meanings, unfolded once -/

theorem execInitAsync_eq (h : s.accepts .initAsync = true) :
    execInitAsync s = .next { s.setPh .initIfls with pcmd := s.pcmd + 1 } := by simp [execInitAsync, h]

theorem execEnqueue_eq {m : List Byte} (h : s.accepts (.enqueue m) = true) :
    execEnqueue m s = .next { s.setPh .wait with msg := m, tail := false, pcmd := s.pcmd + 1 } := by
  simp [execEnqueue, h]

theorem execEnqueueLine_eq {m : List Byte} (h : s.accepts (.enqueueLine m) = true) :
    execEnqueueLine m s = .next { s.setPh .wait with msg := m, tail := true, pcmd := s.pcmd + 1 } := by
  simp [execEnqueueLine, h]

theorem execE1Wait_eq (h : s.atPhase .wait = true) :
    execE1Wait s = .next (if s.byteAt 0 = sentinel then s.setPh .lock else s.setPh .wait) := by simp [execE1Wait, h]

theorem execE2Lock_eq (h : s.atPhase .lock = true) : execE2Lock s = .next { s.setPh .guard with locked := true } := by
  simp [execE2Lock, h]

theorem execE3Guard_eq (h : s.atPhase .guard = true) :
    execE3Guard s = .next { (s.setByte 1 sentinel).setPh .copy with i := 0 } := by
  simp [execE3Guard, h, storeByte_inside]

theorem execE4aCopy_copy (h : s.atPhase .copy = true) (hc : s.copyContinues = true) :
    execE4aCopy s =
      .next { (s.setByte s.i.toNat (s.msg.getD s.i.toNat 0)).setPh .copy with i := s.i + 1 } := by
  have hi : s.i.toNat < capacity := by
    simp only [State.copyContinues, Bool.and_eq_true, decide_eq_true_eq] at hc
    have := hc.1.1
    simp only [capacity] at this ⊢
    omega
  simp [execE4aCopy, h, hc, storeByte_inside s _ hi]

theorem execE4aCopy_done (h : s.atPhase .copy = true) (hc : s.copyContinues = false) :
    execE4aCopy s = .next (s.setPh .term) := by simp [execE4aCopy, h, hc]

theorem execE4bTerm_eq (h : s.atPhase .term = true) (hi : s.i.toNat < capacity) :
    execE4bTerm s = .next ((s.setByte s.i.toNat sentinel).setPh .cursor) := by
  simp [execE4bTerm, h, storeByte_inside s _ hi]

theorem execE4bTerm_outside (h : s.atPhase .term = true) (hi : ¬ s.i.toNat < capacity) :
    execE4bTerm s = .fault (.bufferOffset s.i.toNat) := by
  simp [execE4bTerm, h, storeByte_outside s _ hi]

theorem execE5Cursor_eq (h : s.atPhase .cursor = true) : execE5Cursor s = .next { s.setPh .unlock with cursor := 1 } := by
  simp [execE5Cursor, h]

theorem execE6Unlock_eq (h : s.atPhase .unlock = true) :
    execE6Unlock s = .next { s.setPh .kickRead with locked := false } := by simp [execE6Unlock, h]

theorem execE7aKickRead_eq (h : s.atPhase .kickRead = true) :
    execE7aKickRead s = .next { s.setPh .kickWrite with t := s.byteAt 0 } := by simp [execE7aKickRead, h]

theorem execE7bKickWrite_eq (h : s.atPhase .kickWrite = true) :
    execE7bKickWrite s =
      .next (if s.tail then { (s.writeDR .producer (drValue s.t)).setPh .wait with tail := false, msg := crlf }
        else (s.writeDR .producer (drValue s.t)).setPh .ready) := by
  simp only [execE7bKickWrite, h, require_true, memWrite_dr, thenDo_next, writeDR_tail]

theorem execI1InitIfls_eq (h : s.atPhase .initIfls = true) :
    execI1InitIfls s = .next ((s.writeIFLS iflsValue).setPh .initImsc) := by
  simp only [execI1InitIfls, h, require_true, memWrite_ifls, thenDo_next]

theorem execI2InitImsc_eq (h : s.atPhase .initImsc = true) :
    execI2InitImsc s = .next ((s.writeIMSC imscValue).setPh .initLine) := by
  simp only [execI2InitImsc, h, require_true, memWrite_imsc, thenDo_next]

theorem execI3InitLine_eq (h : s.atPhase .initLine = true) :
    execI3InitLine s = .next ((enableLine s.params.uartIrqLine s).setPh .ready) := by simp [execI3InitLine, h]

theorem execDrainSkip_eq (h : s.drainOutcome = .skip) : execDrainSkip s = .next (s.writeICR txCause) := by
  simp [execDrainSkip, h, drainInvocation_eq]

theorem execDrainSend_eq (h : s.drainOutcome = .send) :
    execDrainSend s =
      .next { (s.writeICR txCause).writeDR .drain (drValue (s.byteAt s.cursor.toNat)) with cursor := s.cursor + 1 } := by
  simp only [execDrainSend, h, decide_true, require_true, drainInvocation_eq, memWrite_dr, thenDo_next,
    writeICR_cursor, byteAt_writeICR, writeDR_cursor]

theorem execDrainRetire_eq (h : s.drainOutcome = .retire) :
    execDrainRetire s = .next { (s.writeICR txCause).setByte 0 sentinel with cursor := 0 } := by
  simp [execDrainRetire, h, drainInvocation_eq, storeByte_inside]

theorem execDevTxEvent_eq {trig : Nat} (ht : s.txTrig = some trig) (h : s.txEventEnabled trig = true) :
    execDevTxEvent s = .next { s.setTxRIS with owed := s.owed - 1 } := by simp [execDevTxEvent, ht, h]

theorem execDevShift_eq (h : s.shiftEnabled = true) :
    execDevShift s = .next { s with wire := s.wire ++ s.txFifo.take 1, txFifo := s.txFifo.drop 1 } := by
  simp [execDevShift, h]

theorem execHostRxEvent_eq (h : s.params.rxTraffic = true) : execHostRxEvent s = .next s.setRxRIS := by
  simp [execHostRxEvent, h]

theorem drainOutcome_skip : s.drainOutcome = .skip ↔ s.locked = true := by
  unfold State.drainOutcome; split <;> [simp [*]; (split <;> simp [*])]

theorem drainOutcome_send :
    s.drainOutcome = .send ↔ s.locked = false ∧ s.cursor.toNat < capacity ∧ s.byteAt s.cursor.toNat ≠ sentinel := by
  unfold State.drainOutcome; split <;> [simp [*]; (split <;> simp [*])]

theorem drainOutcome_retire :
    s.drainOutcome = .retire ↔
      s.locked = false ∧ ¬ (s.cursor.toNat < capacity ∧ s.byteAt s.cursor.toNat ≠ sentinel) := by
  unfold State.drainOutcome; split <;> [simp [*]; (split <;> simp [*])]

end Sys2Proof.Machine
end

