-- ==== Sys2Proof/Laws/Step.lean ====
section
/-! SUPPORT. What an operation and what a step can do, each said once: the inversion lemmas that invariants are derived
from. -/

namespace Sys2Proof.Machine

open Sys2Proof.Config

/-- Everything an operation can do when it answers a next state. -/
inductive Effect (s : State) : Instr → State → Prop where
  /-- A step that is not enabled is not taken. -/
  | waits (i : Instr) : Effect s i s
  | initAsync (h : s.accepts .initAsync = true) :
      Effect s .initAsync { s.setPh .initIfls with pcmd := s.pcmd + 1 }
  | enqueue (m : List Byte) (h : s.accepts (.enqueue m) = true) :
      Effect s (.enqueue m) { s.setPh .wait with msg := m, tail := false, pcmd := s.pcmd + 1 }
  | enqueueLine (m : List Byte) (h : s.accepts (.enqueueLine m) = true) :
      Effect s (.enqueueLine m) { s.setPh .wait with msg := m, tail := true, pcmd := s.pcmd + 1 }
  | idleTestPasses (h : s.atPhase .wait = true) (h0 : s.byteAt 0 = sentinel) : Effect s .e1Wait (s.setPh .lock)
  | idleTestFails (h : s.atPhase .wait = true) (h0 : s.byteAt 0 ≠ sentinel) : Effect s .e1Wait (s.setPh .wait)
  | lock (h : s.atPhase .lock = true) : Effect s .e2Lock { s.setPh .guard with locked := true }
  | guard (h : s.atPhase .guard = true) :
      Effect s .e3Guard { (s.setByte 1 sentinel).setPh .copy with i := 0 }
  | copyByte (h : s.atPhase .copy = true) (hc : s.copyContinues = true) :
      Effect s .e4aCopy { (s.setByte s.i.toNat (s.msg.getD s.i.toNat 0)).setPh .copy with i := s.i + 1 }
  | copyEnds (h : s.atPhase .copy = true) (hc : s.copyContinues = false) : Effect s .e4aCopy (s.setPh .term)
  | term (h : s.atPhase .term = true) (hi : s.i.toNat < capacity) :
      Effect s .e4bTerm ((s.setByte s.i.toNat sentinel).setPh .cursor)
  | cursor (h : s.atPhase .cursor = true) : Effect s .e5Cursor { s.setPh .unlock with cursor := 1 }
  | unlock (h : s.atPhase .unlock = true) : Effect s .e6Unlock { s.setPh .kickRead with locked := false }
  | kickRead (h : s.atPhase .kickRead = true) : Effect s .e7aKickRead { s.setPh .kickWrite with t := s.byteAt 0 }
  | kickReturns (h : s.atPhase .kickWrite = true) (ht : s.tail = false) :
      Effect s .e7bKickWrite ((s.writeDR .producer (drValue s.t)).setPh .ready)
  | kickSecondHalf (h : s.atPhase .kickWrite = true) (ht : s.tail = true) :
      Effect s .e7bKickWrite
        { (s.writeDR .producer (drValue s.t)).setPh .wait with tail := false, msg := crlf }
  | initIfls (h : s.atPhase .initIfls = true) :
      Effect s .i1InitIfls ((s.writeIFLS iflsValue).setPh .initImsc)
  | initImsc (h : s.atPhase .initImsc = true) :
      Effect s .i2InitImsc ((s.writeIMSC imscValue).setPh .initLine)
  | initLine (h : s.atPhase .initLine = true) :
      Effect s .i3InitLine ((enableLine s.params.uartIrqLine s).setPh .ready)
  | skip (h : s.locked = true) : Effect s .drainSkip (s.writeICR txCause)
  | send (hl : s.locked = false) (hc : s.cursor.toNat < capacity) (hb : s.byteAt s.cursor.toNat ≠ sentinel) :
      Effect s .drainSend
        { (s.writeICR txCause).writeDR .drain (drValue (s.byteAt s.cursor.toNat)) with cursor := s.cursor + 1 }
  | retire (hl : s.locked = false) (hc : s.cursor.toNat < capacity → s.byteAt s.cursor.toNat = sentinel) :
      Effect s .drainRetire { (s.writeICR txCause).setByte 0 sentinel with cursor := 0 }
  | noTrigger (ht : s.txTrig = none) : Effect s .devTxEvent (s.refuse .reservedIfls)
  | txEvent {trig : Nat} (ht : s.txTrig = some trig) (h : s.txEventEnabled trig = true) :
      Effect s .devTxEvent { s.setTxRIS with owed := s.owed - 1 }
  | shift (h : s.shiftEnabled = true) :
      Effect s .devShift { s with wire := s.wire ++ s.txFifo.take 1, txFifo := s.txFifo.drop 1 }
  | rxEvent (h : s.params.rxTraffic = true) : Effect s .hostRxEvent s.setRxRIS
  | drWrite (v : Word) : Effect s (.drWrite v) (s.writeDR .bus v)
  | iflsWrite (v : Word) : Effect s (.iflsWrite v) (s.writeIFLS v)
  | imscWrite (v : Word) : Effect s (.imscWrite v) (s.writeIMSC v)
  | icrTx (v : Word) : Effect s (.icrTx v) (s.writeICR v)

/-- A meaning whose `require` fails waits. -/
theorem require_cases {s s' : State} {g : Bool} {body : State → Result} (h : require g body s = .next s') :
    (g = false ∧ s' = s) ∨ (g = true ∧ body s = .next s') := by
  cases g
  · simp only [require_false, Host.Outcome.next.injEq] at h; exact .inl ⟨rfl, h.symm⟩
  · exact .inr ⟨rfl, h⟩

/-- The inversion lemma of `exec`. -/
theorem exec_effect {i : Instr} {s s' : State} (h : exec i s = .next s') : Effect s i s' := by
  have cases_of : ∀ {g : Bool} {body : State → Result}, require g body s = .next s' →
      (g = true → body s = .next s' → Effect s i s') → Effect s i s' := by
    intro g body h hb
    rcases require_cases h with ⟨-, rfl⟩ | ⟨hg, h⟩
    · exact .waits i
    · exact hb hg h
  cases i with
  | initAsync =>
    have h' : execInitAsync s = .next s' := h
    unfold execInitAsync at h'
    refine cases_of h' fun hg _ => ?_
    have := (execInitAsync_eq s hg).symm.trans h; cases this; exact .initAsync hg
  | enqueue m =>
    have h' : execEnqueue m s = .next s' := h
    unfold execEnqueue at h'
    refine cases_of h' fun hg _ => ?_
    have := (execEnqueue_eq s hg).symm.trans h; cases this; exact .enqueue m hg
  | enqueueLine m =>
    have h' : execEnqueueLine m s = .next s' := h
    unfold execEnqueueLine at h'
    refine cases_of h' fun hg _ => ?_
    have := (execEnqueueLine_eq s hg).symm.trans h; cases this; exact .enqueueLine m hg
  | e1Wait =>
    have h' : execE1Wait s = .next s' := h
    unfold execE1Wait at h'
    refine cases_of h' fun hg _ => ?_
    have := (execE1Wait_eq s hg).symm.trans h
    by_cases h0 : s.byteAt 0 = sentinel
    · rw [if_pos h0] at this; cases this; exact .idleTestPasses hg h0
    · rw [if_neg h0] at this; cases this; exact .idleTestFails hg h0
  | e2Lock =>
    have h' : execE2Lock s = .next s' := h
    unfold execE2Lock at h'
    refine cases_of h' fun hg _ => ?_
    have := (execE2Lock_eq s hg).symm.trans h; cases this; exact .lock hg
  | e3Guard =>
    have h' : execE3Guard s = .next s' := h
    unfold execE3Guard at h'
    refine cases_of h' fun hg _ => ?_
    have := (execE3Guard_eq s hg).symm.trans h; cases this; exact .guard hg
  | e4aCopy =>
    have h' : execE4aCopy s = .next s' := h
    unfold execE4aCopy at h'
    refine cases_of h' fun hg _ => ?_
    cases hc : s.copyContinues with
    | true => have := (execE4aCopy_copy s hg hc).symm.trans h; cases this; exact .copyByte hg hc
    | false => have := (execE4aCopy_done s hg hc).symm.trans h; cases this; exact .copyEnds hg hc
  | e4bTerm =>
    have h' : execE4bTerm s = .next s' := h
    unfold execE4bTerm at h'
    refine cases_of h' fun hg _ => ?_
    by_cases hi : s.i.toNat < capacity
    · have := (execE4bTerm_eq s hg hi).symm.trans h; cases this; exact .term hg hi
    · have := (execE4bTerm_outside s hg hi).symm.trans h; cases this
  | e5Cursor =>
    have h' : execE5Cursor s = .next s' := h
    unfold execE5Cursor at h'
    refine cases_of h' fun hg _ => ?_
    have := (execE5Cursor_eq s hg).symm.trans h; cases this; exact .cursor hg
  | e6Unlock =>
    have h' : execE6Unlock s = .next s' := h
    unfold execE6Unlock at h'
    refine cases_of h' fun hg _ => ?_
    have := (execE6Unlock_eq s hg).symm.trans h; cases this; exact .unlock hg
  | e7aKickRead =>
    have h' : execE7aKickRead s = .next s' := h
    unfold execE7aKickRead at h'
    refine cases_of h' fun hg _ => ?_
    have := (execE7aKickRead_eq s hg).symm.trans h; cases this; exact .kickRead hg
  | e7bKickWrite =>
    have h' : execE7bKickWrite s = .next s' := h
    unfold execE7bKickWrite at h'
    refine cases_of h' fun hg _ => ?_
    have := (execE7bKickWrite_eq s hg).symm.trans h
    cases ht : s.tail with
    | false => simp only [ht, Bool.false_eq_true, if_false] at this; cases this; exact .kickReturns hg ht
    | true => simp only [ht, if_true] at this; cases this; exact .kickSecondHalf hg ht
  | i1InitIfls =>
    have h' : execI1InitIfls s = .next s' := h
    unfold execI1InitIfls at h'
    refine cases_of h' fun hg _ => ?_
    have := (execI1InitIfls_eq s hg).symm.trans h; cases this; exact .initIfls hg
  | i2InitImsc =>
    have h' : execI2InitImsc s = .next s' := h
    unfold execI2InitImsc at h'
    refine cases_of h' fun hg _ => ?_
    have := (execI2InitImsc_eq s hg).symm.trans h; cases this; exact .initImsc hg
  | i3InitLine =>
    have h' : execI3InitLine s = .next s' := h
    unfold execI3InitLine at h'
    refine cases_of h' fun hg _ => ?_
    have := (execI3InitLine_eq s hg).symm.trans h; cases this; exact .initLine hg
  | drainSkip =>
    refine cases_of h fun hg _ => ?_
    have hg := of_decide_eq_true hg
    have := (execDrainSkip_eq s hg).symm.trans h; cases this; exact .skip ((drainOutcome_skip s).1 hg)
  | drainSend =>
    refine cases_of h fun hg _ => ?_
    have hg := of_decide_eq_true hg
    obtain ⟨hl, hc, hb⟩ := (drainOutcome_send s).1 hg
    have := (execDrainSend_eq s hg).symm.trans h; cases this; exact .send hl hc hb
  | drainRetire =>
    refine cases_of h fun hg _ => ?_
    have hg := of_decide_eq_true hg
    obtain ⟨hl, hc⟩ := (drainOutcome_retire s).1 hg
    have := (execDrainRetire_eq s hg).symm.trans h; cases this
    exact .retire hl fun hlt => by_contra fun hb => hc ⟨hlt, hb⟩
  | devTxEvent =>
    cases ht : s.txTrig with
    | none =>
      have : execDevTxEvent s = .next (s.refuse .reservedIfls) := by simp [execDevTxEvent, ht]
      cases this.symm.trans h; exact .noTrigger ht
    | some trig =>
      have he : execDevTxEvent s =
          require (s.txEventEnabled trig) (fun s => .next { s.setTxRIS with owed := s.owed - 1 }) s := by
        simp [execDevTxEvent, ht]
      refine cases_of (he.symm.trans h) fun hg _ => ?_
      cases (execDevTxEvent_eq s ht hg).symm.trans h; exact .txEvent ht hg
  | devShift =>
    have h' : execDevShift s = .next s' := h
    unfold execDevShift at h'
    refine cases_of h' fun hg _ => ?_
    have := (execDevShift_eq s hg).symm.trans h; cases this; exact .shift hg
  | hostRxEvent =>
    have h' : execHostRxEvent s = .next s' := h
    unfold execHostRxEvent at h'
    refine cases_of h' fun hg _ => ?_
    have := (execHostRxEvent_eq s hg).symm.trans h; cases this; exact .rxEvent hg
  | drWrite v => cases (memWrite_dr s .bus v).symm.trans h; exact .drWrite v
  | iflsWrite v => cases (memWrite_ifls s .bus v).symm.trans h; exact .iflsWrite v
  | imscWrite v => cases (memWrite_imsc s .bus v).symm.trans h; exact .imscWrite v
  | icrTx v => cases (memWrite_icr s .bus v).symm.trans h; exact .icrTx v

/-- An operation stops in one case only: E4b at an index outside the buffer. -/
theorem exec_stops {i : Instr} {s : State} (h : ∀ s', exec i s ≠ .next s') :
    i = .e4bTerm ∧ s.atPhase .term = true ∧ ¬ s.i.toNat < capacity := by
  have waits : ∀ {g : Bool} {body : State → Result}, exec i s = require g body s → g = true := by
    intro g body he
    cases g with
    | true => rfl
    | false => exact absurd he (h s)
  cases i with
  | initAsync =>
    have he : exec .initAsync s = execInitAsync s := rfl
    unfold execInitAsync at he
    exact absurd (execInitAsync_eq s (waits he)) (h _)
  | enqueue m =>
    have he : exec (.enqueue m) s = execEnqueue m s := rfl
    unfold execEnqueue at he
    exact absurd (execEnqueue_eq s (waits he)) (h _)
  | enqueueLine m =>
    have he : exec (.enqueueLine m) s = execEnqueueLine m s := rfl
    unfold execEnqueueLine at he
    exact absurd (execEnqueueLine_eq s (waits he)) (h _)
  | e1Wait =>
    have he : exec .e1Wait s = execE1Wait s := rfl
    unfold execE1Wait at he
    exact absurd (execE1Wait_eq s (waits he)) (h _)
  | e2Lock =>
    have he : exec .e2Lock s = execE2Lock s := rfl
    unfold execE2Lock at he
    exact absurd (execE2Lock_eq s (waits he)) (h _)
  | e3Guard =>
    have he : exec .e3Guard s = execE3Guard s := rfl
    unfold execE3Guard at he
    exact absurd (execE3Guard_eq s (waits he)) (h _)
  | e4aCopy =>
    have he : exec .e4aCopy s = execE4aCopy s := rfl
    unfold execE4aCopy at he
    cases hc : s.copyContinues with
    | true => exact absurd (execE4aCopy_copy s (waits he) hc) (h _)
    | false => exact absurd (execE4aCopy_done s (waits he) hc) (h _)
  | e4bTerm =>
    have he : exec .e4bTerm s = execE4bTerm s := rfl
    unfold execE4bTerm at he
    have hg := waits he
    exact ⟨rfl, hg, fun hi => absurd (execE4bTerm_eq s hg hi) (h _)⟩
  | e5Cursor =>
    have he : exec .e5Cursor s = execE5Cursor s := rfl
    unfold execE5Cursor at he
    exact absurd (execE5Cursor_eq s (waits he)) (h _)
  | e6Unlock =>
    have he : exec .e6Unlock s = execE6Unlock s := rfl
    unfold execE6Unlock at he
    exact absurd (execE6Unlock_eq s (waits he)) (h _)
  | e7aKickRead =>
    have he : exec .e7aKickRead s = execE7aKickRead s := rfl
    unfold execE7aKickRead at he
    exact absurd (execE7aKickRead_eq s (waits he)) (h _)
  | e7bKickWrite =>
    have he : exec .e7bKickWrite s = execE7bKickWrite s := rfl
    unfold execE7bKickWrite at he
    exact absurd (execE7bKickWrite_eq s (waits he)) (h _)
  | i1InitIfls =>
    have he : exec .i1InitIfls s = execI1InitIfls s := rfl
    unfold execI1InitIfls at he
    exact absurd (execI1InitIfls_eq s (waits he)) (h _)
  | i2InitImsc =>
    have he : exec .i2InitImsc s = execI2InitImsc s := rfl
    unfold execI2InitImsc at he
    exact absurd (execI2InitImsc_eq s (waits he)) (h _)
  | i3InitLine =>
    have he : exec .i3InitLine s = execI3InitLine s := rfl
    unfold execI3InitLine at he
    exact absurd (execI3InitLine_eq s (waits he)) (h _)
  | drainSkip =>
    have he : exec .drainSkip s = execDrainSkip s := rfl
    unfold execDrainSkip at he
    exact absurd (execDrainSkip_eq s (of_decide_eq_true (waits he))) (h _)
  | drainSend =>
    have he : exec .drainSend s = execDrainSend s := rfl
    unfold execDrainSend at he
    exact absurd (execDrainSend_eq s (of_decide_eq_true (waits he))) (h _)
  | drainRetire =>
    have he : exec .drainRetire s = execDrainRetire s := rfl
    unfold execDrainRetire at he
    exact absurd (execDrainRetire_eq s (of_decide_eq_true (waits he))) (h _)
  | devTxEvent =>
    cases ht : s.txTrig with
    | none =>
      have : execDevTxEvent s = .next (s.refuse .reservedIfls) := by simp [execDevTxEvent, ht]
      exact absurd this (h _)
    | some trig =>
      have he : execDevTxEvent s =
          require (s.txEventEnabled trig) (fun s => .next { s.setTxRIS with owed := s.owed - 1 }) s := by
        simp [execDevTxEvent, ht]
      exact absurd (execDevTxEvent_eq s ht (waits he)) (h _)
  | devShift =>
    have he : exec .devShift s = execDevShift s := rfl
    unfold execDevShift at he
    exact absurd (execDevShift_eq s (waits he)) (h _)
  | hostRxEvent =>
    have he : exec .hostRxEvent s = execHostRxEvent s := rfl
    unfold execHostRxEvent at he
    exact absurd (execHostRxEvent_eq s (waits he)) (h _)
  | drWrite v => exact absurd (memWrite_dr s .bus v) (h _)
  | iflsWrite v => exact absurd (memWrite_ifls s .bus v) (h _)
  | imscWrite v => exact absurd (memWrite_imsc s .bus v) (h _)
  | icrTx v => exact absurd (memWrite_icr s .bus v) (h _)

/-! ### What a turn runs -/

theorem decodePhase_ok {c : BitVec 4} {i : Instr} (h : decodePhase c = .ok i) :
    ∃ p, i.phase = some p ∧ Phase.ofCode c = some p := by
  unfold decodePhase at h
  split at h
  · cases h
  · next p hp =>
    split at h
    · cases h
    · next j hj =>
      cases h
      exact ⟨p, by cases p <;> cases hj <;> rfl, hp⟩

theorem ofCode_eq_some {c : BitVec 4} {p : Phase} (h : Phase.ofCode c = some p) : c = p.code := by
  revert c; cases p <;> decide

/-- In an initialised UART a turn finds what `fetchTurn` says. -/
theorem fetch_initialised {s : State} (h : s.uartInitialised = true) (turn : Turn) :
    fetch turn s = fetchTurn turn s := by simp [fetch, h]

/-- A refused launch: every turn records it and does nothing else. -/
theorem step_uninitialised {s : State} (h : s.uartInitialised = false) :
    step s = .next (s.passTurn.refuse .refusedLaunch) := by simp [step, fetch, h]

/-- A turn that finds anything but a refusal is a turn of an initialised UART. -/
theorem fetch_turn {turn : Turn} {s : State} {f : Fetched} (h : fetch turn s = f) (hf : f ≠ .refuse .refusedLaunch) :
    s.uartInitialised = true ∧ fetchTurn turn s = f := by
  unfold fetch at h
  split at h
  · next hi => exact ⟨hi, h⟩
  · exact absurd h.symm hf

/-- What the turn was, when it runs an operation. -/
theorem fetch_run {turn : Turn} {s : State} {i : Instr} (h : fetch turn s = .run i) :
    (turn = .agent .host ∧ s.atPhase .ready = true ∧ commandAt s.prog s.pcmd = .ok i) ∨
    (turn = .agent .producer ∧ ∃ p, i.phase = some p ∧ s.ph = p.code) ∨
    (turn = .agent .drain ∧ s.dispatchEnabled = true ∧ i = s.drainOutcome.instr) ∨
    (turn = .agent .txEvent ∧ i = .devTxEvent ∧ ∃ trig, s.txTrig = some trig ∧ s.txEventEnabled trig = true) ∨
    (turn = .agent .shift ∧ i = .devShift ∧ s.shiftEnabled = true) ∨
    (turn = .agent .rxEvent ∧ i = .hostRxEvent ∧ s.params.rxTraffic = true) ∨
    (turn.isAgent = false ∧ i.format = .regw) := by
  replace h := (fetch_turn h (by simp)).2
  unfold fetchTurn at h
  split at h
  · unfold fetchHost at h
    split at h
    · next hp =>
      split at h
      · next j hj => cases h; exact .inl ⟨rfl, hp, hj⟩
      all_goals cases h
    · cases h
  · unfold fetchProducer at h
    split at h
    · next j hj =>
      cases h
      obtain ⟨p, hp, hc⟩ := decodePhase_ok hj
      exact .inr (.inl ⟨rfl, p, hp, ofCode_eq_some hc⟩)
    all_goals cases h
  · unfold fetchDrain at h
    split at h
    · next hd => cases h; exact .inr (.inr (.inl ⟨rfl, hd, rfl⟩))
    · cases h
  · unfold fetchTxEvent at h
    split at h
    · cases h
    · next trig ht =>
      split at h
      · next he => cases h; exact .inr (.inr (.inr (.inl ⟨rfl, rfl, trig, ht, he⟩)))
      · cases h
  · split at h
    · next hs => cases h; exact .inr (.inr (.inr (.inr (.inl ⟨rfl, rfl, hs⟩))))
    · cases h
  · split at h
    · next hs => cases h; exact .inr (.inr (.inr (.inr (.inr (.inl ⟨rfl, rfl, hs⟩)))))
    · cases h
  · refine .inr (.inr (.inr (.inr (.inr (.inr ⟨rfl, ?_⟩)))))
    unfold fetchBus at h
    simp only at h
    split at h
    · cases h
    · split at h
      · cases h
      · split at h
        · next j hj =>
          cases h
          unfold decodeWrite at hj
          repeat' split at hj
          all_goals first | (cases hj; rfl) | cases hj
        all_goals cases h
  · cases h

/-! ### The step -/

/-- The state in which a turn's operation runs differs from the one before in the schedule and the trace only. -/
theorem ran_eq (s : State) (i : Instr) :
    s.passTurn.record i = { s with turns := s.passTurn.turns, tick := s.passTurn.tick,
                                    trace := (s.passTurn.record i).trace } := by
  ext <;> simp

theorem fetchProducer_raise {s : State} {f : Fault} (h : fetchProducer s = .raise f) :
    Phase.ofCode s.ph = none ∧ f = .phaseCorrupt s.ph := by
  unfold fetchProducer decodePhase at h
  split at h
  · cases h
  · next c hc =>
    cases h
    split at hc
    · next hp => cases hc; exact ⟨hp, rfl⟩
    · split at hc <;> cases hc
  · cases h

/-- Only the Producer's turn records a fault by itself. -/
theorem fetch_raise {turn : Turn} {s : State} {f : Fault} (h : fetch turn s = .raise f) :
    turn = .agent .producer ∧ Phase.ofCode s.ph = none ∧ f = .phaseCorrupt s.ph := by
  replace h := (fetch_turn h (by simp)).2
  unfold fetchTurn at h
  split at h
  · unfold fetchHost at h; repeat (first | split at h | cases h)
  · exact ⟨rfl, fetchProducer_raise h⟩
  · unfold fetchDrain at h; split at h <;> cases h
  · unfold fetchTxEvent at h; repeat (first | split at h | cases h)
  · split at h <;> cases h
  · split at h <;> cases h
  · unfold fetchBus at h; simp only at h; repeat (first | split at h | cases h)
  · cases h

/-- The inversion lemma of `step`. -/
theorem step_cases {s s' : State} (h : step s = .next s') :
    s' = s.passTurn ∨ (∃ r, fetch s.turn s = .refuse r ∧ s' = s.passTurn.refuse r) ∨
    (s.turn = .agent .producer ∧ Phase.ofCode s.ph = none ∧ s' = s.passTurn.raise (.phaseCorrupt s.ph)) ∨
    (∃ i, fetch s.turn s = .run i ∧ Effect (s.passTurn.record i) i s') := by
  unfold step at h
  split at h
  · next i hi => exact .inr (.inr (.inr ⟨i, hi, exec_effect h⟩))
  · cases h; exact .inl rfl
  · next r hr => cases h; exact .inr (.inl ⟨r, hr, rfl⟩)
  · next f hf =>
    cases h
    obtain ⟨ht, hp, rfl⟩ := fetch_raise hf
    exact .inr (.inr (.inl ⟨ht, hp, rfl⟩))
  · cases h

end Sys2Proof.Machine
end

