-- ==== Sys2Proof/Laws/Invariants.lean ====
section
/-! SUPPORT. Small lemmas about the invariants of Sys2Proof/Safety.lean: which fields they read, and what they say at a
named phase; which turn runs an operation; and infinite runs. -/

namespace Sys2Proof.Machine

open Sys2Proof.Config

/-! ### What a phase says -/

/-- At one phase, the test for any phase is decided. -/
theorem atPhase_at {s : State} {p : Phase} (h : s.atPhase p = true) (q : Phase) : s.atPhase q = decide (p = q) :=
  atPhase_of_ph _ ((atPhase_iff _ _).1 h)

theorem atPhase_congr {s u : State} (h : u.ph = s.ph) (q : Phase) : u.atPhase q = s.atPhase q := by
  simp [State.atPhase, h]

theorem byteAt_congr {s u : State} (h : u.bytes = s.bytes) (k : Nat) : u.byteAt k = s.byteAt k := by
  simp [State.byteAt, h]

/-- `BufferInv` reads these fields only. -/
theorem bufferInv_congr {s u : State} (h1 : u.bytes = s.bytes) (h2 : u.cursor = s.cursor) (h3 : u.locked = s.locked)
    (h4 : u.i = s.i) (h5 : u.ph = s.ph) (h6 : u.txFifo.length ≤ 16) (I : s.BufferInv) : u.BufferInv := by
  have hb := byteAt_congr h1
  have hp := atPhase_congr h5
  constructor
  · rw [h1]; exact I.bytes_wf
  · rw [h3, I.lock_span]; simp [State.loading, hp]
  · rw [h2]; exact I.cursor_bound
  · rw [h4]; exact I.index_bound
  · exact h6
  · simpa [State.rewriting, State.sentinelAhead, hp, hb, h2] using I.sentinel_ahead
  · simpa [hp, hb, h4] using I.guard_kept
  · simpa [hp, hb, h4] using I.terminated

/-- `BufferInv` at a named phase. -/
theorem bufferInv_at {s : State} {p : Phase} (h : s.ph = p.code) :
    s.BufferInv ↔
    Memory.wf s.bytes = true ∧ s.locked = decide (p ∈ [.guard, .copy, .term, .cursor, .unlock]) ∧
    s.cursor.toNat < 64 ∧ s.i.toNat < 64 ∧ s.txFifo.length ≤ 16 ∧
    (p ∉ [Phase.guard, .copy, .term, .cursor] → s.sentinelAhead) ∧
    (p ∈ [Phase.copy, .term, .cursor] → s.i = 0 → s.byteAt 1 = sentinel) ∧
    (p = .cursor → s.byteAt s.i.toNat = sentinel) := by
  have hp := fun q => atPhase_of_ph (q := q) s h
  constructor
  · rintro ⟨h1, h2, h3, h4, h5, h6, h7, h8⟩
    refine ⟨h1, ?_, h3, h4, h5, ?_, ?_, ?_⟩
    · rw [h2]; simp only [State.loading, hp]; cases p <;> rfl
    · intro hn; apply h6; simp only [State.rewriting, hp]; revert hn; cases p <;> simp
    · intro hn; apply h7; simp only [hp]; revert hn; cases p <;> simp
    · intro hn; apply h8; simp [hp, hn]
  · rintro ⟨h1, h2, h3, h4, h5, h6, h7, h8⟩
    constructor
    · exact h1
    · rw [h2]; simp only [State.loading, hp]; cases p <;> rfl
    · exact h3
    · exact h4
    · exact h5
    · intro hn; apply h6; simp only [State.rewriting, hp] at hn; revert hn; cases p <;> simp
    · intro hn; apply h7; simp only [hp] at hn; revert hn; cases p <;> simp
    · intro hn; apply h8; simpa [hp] using hn

/-- `WindowInv` at a named phase. -/
theorem windowInv_at {s : State} {p : Phase} (h : s.ph = p.code) (B : s.BufferInv) : s.WindowInv ↔
    s.params.copyStopsAtZero = true ∧ (p ∈ [Phase.copy, .term, .cursor] → s.i ≠ 0 → s.byteAt 0 ≠ sentinel) ∧
    (p ∉ [Phase.guard, .copy, .term, .cursor] → s.byteAt 0 = sentinel →
      s.cursor = 0 ∨ (s.cursor = 1 ∧ s.byteAt 1 = sentinel)) ∧
    (p = .lock → s.byteAt 0 = sentinel) := by
  have hp := fun q => atPhase_of_ph (q := q) s h
  constructor
  · rintro ⟨-, h6, h7, h8, h9⟩
    refine ⟨h6, ?_, ?_, fun hl => h9 (by simp [hp, hl])⟩
    · intro hn; apply h7; simp only [hp]; revert hn; cases p <;> simp
    · intro hn; apply h8; simp only [State.rewriting, hp]; revert hn; cases p <;> simp
  · rintro ⟨h6, h7, h8, h9⟩
    refine ⟨B, h6, ?_, ?_, fun hl => h9 (by simpa [hp] using hl)⟩
    · intro hn; apply h7; simp only [hp] at hn; revert hn; cases p <;> simp
    · intro hn; apply h8; simp only [State.rewriting, hp] at hn; revert hn; cases p <;> simp

theorem windowInv_congr {s u : State} (B : u.BufferInv) (h1 : u.bytes = s.bytes) (h2 : u.cursor = s.cursor)
    (h4 : u.i = s.i) (h5 : u.ph = s.ph) (h6 : u.params = s.params) (I : s.WindowInv) : u.WindowInv := by
  have hb := byteAt_congr h1
  have hp := atPhase_congr h5
  refine ⟨B, by rw [h6]; exact I.stops, ?_, ?_, by simpa [hp, hb] using I.idle_seen⟩
  · simpa [hp, hb, h4] using I.first_copied
  · simpa [State.rewriting, hp, hb, h2] using I.nothing_to_send

/-- `SingleWriterInv` at a named phase. -/
theorem writer_at {level : Nat} {s : State} {p : Phase} (h : s.ph = p.code) (W : s.WindowInv) :
    s.SingleWriterInv level ↔
    (s.onlyAgents = true ∧ s.rxQuiet = true ∧ s.params.txEventMode = .owed ∧ noEmptyMessage true s.prog = true ∧
     (∃ n, s.txTrig = some n ∧ n ≤ level) ∧ 2 ≤ level ∧ level < 16) ∧
    (p ∈ [Phase.wait, .lock, .guard, .copy] → storedPart true s.msg ≠ []) ∧
    (p ∈ [Phase.term, .cursor] → s.i ≠ 0) ∧
    (p ∈ [Phase.unlock, .kickRead, .kickWrite] → s.byteAt 0 ≠ sentinel) ∧
    (s.txTokens =
      if p ∉ [Phase.lock, .guard, .copy, .term, .cursor, .unlock, .kickRead, .kickWrite] ∧
        s.byteAt 0 ≠ sentinel then 1 else 0) ∧
    s.txFifo.length ≤ level + s.owed := by
  have hp := fun q => atPhase_of_ph (q := q) s h
  have hd : s.inDrain = decide
      (p ∉ [Phase.lock, .guard, .copy, .term, .cursor, .unlock, .kickRead, .kickWrite] ∧
        s.byteAt 0 ≠ sentinel) := by
    simp only [State.inDrain, State.producerHolds, State.armed, State.loading, hp]
    cases p <;> simp <;> rfl
  constructor
  · rintro ⟨-, a1, a2, a3, a4, a5, a6, a7, a8, a9, a10, a11, a12⟩
    refine ⟨⟨a1, a2, a3, a4, a5, a6, a7⟩, ?_, ?_, ?_, ?_, a12⟩
    · intro hn; apply a8; simp only [State.messageAhead, hp]; revert hn; cases p <;> simp
    · intro hn; apply a9; simp only [hp]; revert hn; cases p <;> simp
    · intro hn; apply a10; simp only [hp]; revert hn; cases p <;> simp
    · rw [a11, hd]; simp
  · rintro ⟨⟨a1, a2, a3, a4, a5, a6, a7⟩, a8, a9, a10, a11, a12⟩
    refine ⟨W, a1, a2, a3, a4, a5, a6, a7, ?_, ?_, ?_, ?_, a12⟩
    · intro hn; apply a8; simp only [State.messageAhead, hp] at hn; revert hn; cases p <;> simp
    · intro hn; apply a9; simp only [hp] at hn; revert hn; cases p <;> simp
    · intro hn; apply a10; simp only [hp] at hn; revert hn; cases p <;> simp
    · rw [a11, hd]; simp

theorem writer_congr {level : Nat} {s u : State} (W : u.WindowInv) (h1 : u.bytes = s.bytes) (h4 : u.i = s.i)
    (h5 : u.ph = s.ph) (h6 : u.params = s.params) (h7 : u.onlyAgents = true) (h8 : u.prog = s.prog)
    (h9 : u.uartIFLS = s.uartIFLS) (h10 : u.msg = s.msg) (h11 : u.uartRIS = s.uartRIS) (h12 : u.owed = s.owed)
    (h13 : u.txFifo.length ≤ s.txFifo.length) (I : s.SingleWriterInv level) : u.SingleWriterInv level := by
  have hb := byteAt_congr h1
  have hp := atPhase_congr h5
  refine ⟨W, h7, ?_, by rw [h6]; exact I.mode, by rw [h8]; exact I.program, ?_, I.level_low, I.level_high, ?_, ?_,
    ?_, ?_, ?_⟩
  · have := I.quiet; simpa [State.rxQuiet, State.rxRIS, h6, h11] using this
  · have := I.trigger; simpa [State.txTrig, h9] using this
  · have := I.message; simpa [State.messageAhead, hp, h10] using this
  · have := I.loaded; simpa [hp, h4] using this
  · have := I.held; simpa [hp, hb] using this
  · have := I.tokens
    simpa [State.txTokens, State.txRIS, State.inDrain, State.producerHolds, State.armed, State.loading, hp, hb, h11,
      h12] using this
  · have := I.fifo_level; rw [h12]; omega

/-- `LoadedInv` at a named phase. -/
theorem loaded_at {s : State} {p : Phase} (h : s.ph = p.code) : s.LoadedInv ↔
    (p = .copy → s.i.toNat ≤ (storedPart true s.msg).length) ∧
    (p ∈ [Phase.term, .cursor] → s.i.toNat = (storedPart true s.msg).length) ∧
    (p ∈ [Phase.copy, .term, .cursor] → ∀ k, k < s.i.toNat → (storedPart true s.msg)[k]? = some (s.byteAt k)) ∧
    (p ∈ [Phase.unlock, .kickRead, .kickWrite] → s.cursor = 1 ∧
      (∀ k, k < (storedPart true s.msg).length → (storedPart true s.msg)[k]? = some (s.byteAt k)) ∧
      s.byteAt (storedPart true s.msg).length = sentinel) ∧
    (p = .kickWrite → s.t = s.byteAt 0) := by
  have hp := fun q => atPhase_of_ph (q := q) s h
  constructor
  · rintro ⟨a1, a2, a3, a4, a5⟩
    refine ⟨?_, ?_, ?_, ?_, ?_⟩
    · intro hn; apply a1; simp only [hp]; revert hn; cases p <;> simp
    · intro hn; apply a2; simp only [hp]; revert hn; cases p <;> simp
    · intro hn; apply a3; simp only [hp]; revert hn; cases p <;> simp
    · intro hn; apply a4; simp only [hp]; revert hn; cases p <;> simp
    · intro hn; apply a5; simp only [hp]; revert hn; cases p <;> simp
  · rintro ⟨a1, a2, a3, a4, a5⟩
    refine ⟨?_, ?_, ?_, ?_, ?_⟩
    · intro hn; apply a1; simp only [hp] at hn; revert hn; cases p <;> simp
    · intro hn; apply a2; simp only [hp] at hn; revert hn; cases p <;> simp
    · intro hn; apply a3; simp only [hp] at hn; revert hn; cases p <;> simp
    · intro hn; apply a4; simp only [hp] at hn; revert hn; cases p <;> simp
    · intro hn; apply a5; simp only [hp] at hn; revert hn; cases p <;> simp

theorem loaded_congr {s u : State} (h1 : u.bytes = s.bytes) (h2 : u.cursor = s.cursor) (h4 : u.i = s.i)
    (h5 : u.ph = s.ph) (h10 : u.msg = s.msg) (h11 : u.t = s.t) (I : s.LoadedInv) : u.LoadedInv := by
  have hb := byteAt_congr h1
  have hp := atPhase_congr h5
  have := I.copied; have := I.copied_all; have := I.stored; have := I.ready_to_send; have := I.latched
  constructor <;> simp only [hb, hp, h2, h4, h10, h11] <;> assumption

theorem rest_congr {s u : State} (h1 : u.bytes = s.bytes) (h2 : u.cursor = s.cursor) : u.bufferRest = s.bufferRest := by
  have : u.byteAt = s.byteAt := funext (byteAt_congr h1)
  simp [State.bufferRest, this, h2]

/-- What is still to be sent, at a named phase. -/
theorem undelivered_at {s : State} {p : Phase} (h : s.ph = p.code) : s.undelivered =
    if p = .wait then s.bufferRest ++ s.messageRest
    else if p ∈ [Phase.lock, .guard, .copy, .term, .cursor, .unlock, .kickRead, .kickWrite] then s.messageRest
    else s.bufferRest := by
  have hp := fun q => atPhase_of_ph (q := q) s h
  simp only [State.undelivered, State.armed, State.loading, hp]
  cases p <;> simp

/-! ### The copy -/

/-- A copying step stays inside the buffer and inside the message. -/
theorem copy_bound {s : State} (hc : s.copyContinues = true) :
    s.i.toNat < 63 ∧ (s.i + 1).toNat = s.i.toNat + 1 ∧ s.i.toNat < s.msg.length := by
  simp only [State.copyContinues, Bool.and_eq_true, decide_eq_true_eq, capacity] at hc
  have h1 : s.i.toNat < 63 := by omega
  refine ⟨h1, ?_, hc.1.2⟩
  simp only [cursorWidth] at *; simp [BitVec.toNat_add]; omega

theorem copied_byte {s : State} (hc : s.copyContinues = true) (hs : s.params.copyStopsAtZero = true) :
    s.msg.getD s.i.toNat 0 ≠ sentinel := by
  simp only [State.copyContinues, hs, Bool.true_and, Bool.and_eq_true, Bool.not_eq_true', beq_eq_false_iff_ne] at hc
  exact hc.2

/-! ### The device preconditions -/

theorem uartInitialised_congr {s u : State} (h1 : u.uartCR = s.uartCR) (h2 : u.uartLCRH = s.uartLCRH) :
    u.uartInitialised = s.uartInitialised := by
  simp only [State.uartInitialised, State.fifoEn, State.uartEn, State.txEn, h1, h2]

/-- A launch state has them. -/
theorem launched_initialised {s : State} (h : s.Launched) : s.uartInitialised = true := by
  have h0 := congrArg (fun w => w.getLsbD 0) h.uartCR
  have h8 := congrArg (fun w => w.getLsbD 8) h.uartCR
  have h4 := congrArg (fun w => w.getLsbD 4) h.uartLCRH
  simp at h0 h4 h8
  simp [State.uartInitialised, State.fifoEn, State.uartEn, State.txEn, h0, h4, h8]

/-- No step takes them away, or gives them. -/
theorem step_keeps_uartInitialised {s s' : State} (h : step s = .next s') : s'.uartInitialised = s.uartInitialised := by
  rcases step_cases h with rfl | ⟨_, _, rfl⟩ | ⟨_, _, rfl⟩ | ⟨_, _, e⟩
  · exact uartInitialised_congr (by simp) (by simp)
  · exact uartInitialised_congr (by simp) (by simp)
  · exact uartInitialised_congr (by simp) (by simp)
  · exact uartInitialised_congr (by cases e <;> simp [enableLine]) (by cases e <;> simp [enableLine])

/-! ### Turns -/

/-- Only commands stand in a stream. -/
theorem commandAt_format {bs : List Byte} {k : Nat} {i : Instr} (h : commandAt bs k = .ok i) : i.format = .cmd := by
  induction k generalizing bs with
  | zero =>
    cases hc : decodeCommand bs with
    | error e => rw [commandAt, hc] at h; cases h
    | ok p => rw [commandAt, hc] at h; cases h; exact (decodeCommand_ok hc).2.2
  | succ k ih =>
    rw [commandAt] at h
    cases hc : decodeCommand bs with
    | error e => rw [hc] at h; cases h
    | ok p => rw [hc] at h; exact ih h

/-- A micro-step is run at the Producer's turn, at its own phase. -/
theorem producer_turn {s : State} {i : Instr} {p : Phase} (h : fetch s.turn s = .run i) (hi : i.phase = some p) :
    s.turn = .agent .producer ∧ s.ph = p.code := by
  rcases fetch_run h with
    ⟨_, _, h2⟩ | ⟨h1, q, h2, h3⟩ | ⟨_, h2, h3⟩ | ⟨_, rfl, _⟩ | ⟨_, rfl, _⟩ | ⟨_, rfl, _⟩ | ⟨h1, h2⟩
  · have := commandAt_format h2
    cases i <;> first | (cases hi; done) | (cases this; done)
  · rw [hi] at h2; cases h2; exact ⟨h1, h3⟩
  · subst h3; revert hi; cases s.drainOutcome <;> simp [DrainOutcome.instr, Instr.phase]
  · cases hi
  · cases hi
  · cases hi
  · cases i <;> first | (cases hi; done) | (cases h2; done)

/-- A Drain outcome is run at the Drain's turn, under the dispatch condition. -/
theorem drain_turn {s : State} {i : Instr} (h : fetch s.turn s = .run i)
    (hi : i = .drainSkip ∨ i = .drainSend ∨ i = .drainRetire) : s.turn = .agent .drain ∧ s.dispatchEnabled = true := by
  rcases fetch_run h with
    ⟨_, _, h2⟩ | ⟨h1, q, h2, h3⟩ | ⟨h0, h2, h3⟩ | ⟨_, rfl, _⟩ | ⟨_, rfl, _⟩ | ⟨_, rfl, _⟩ | ⟨h1, h2⟩
  · have := commandAt_format h2
    rcases hi with rfl | rfl | rfl <;> cases this
  · rcases hi with rfl | rfl | rfl <;> cases h2
  · exact ⟨h0, h2⟩
  · simp at hi
  · simp at hi
  · simp at hi
  · rcases hi with rfl | rfl | rfl <;> cases h2

/-- Under `onlyAgents` every turn is an agent's. -/
theorem agent_turn {s : State} (h : s.onlyAgents = true) : s.turn.isAgent = true ∧ s.passTurn.onlyAgents = true := by
  unfold State.onlyAgents at *
  cases ht : s.turns with
  | nil => constructor <;> simp [State.turn, ht, State.passTurn, Turn.isAgent]
  | cons t r => rw [ht] at h; simp at h; constructor <;> simp [State.turn, ht, State.passTurn, h]; exact h.2

/-! ### Infinite runs -/

@[simp] theorem giveTurn_turns (a : AgentStep) (s : State) : (s.giveTurn a).turns = [.agent a] := rfl
@[simp] theorem giveTurn_bytes (a : AgentStep) (s : State) : (s.giveTurn a).bytes = s.bytes := rfl
@[simp] theorem giveTurn_cursor (a : AgentStep) (s : State) : (s.giveTurn a).cursor = s.cursor := rfl
@[simp] theorem giveTurn_locked (a : AgentStep) (s : State) : (s.giveTurn a).locked = s.locked := rfl
@[simp] theorem giveTurn_msg (a : AgentStep) (s : State) : (s.giveTurn a).msg = s.msg := rfl
@[simp] theorem giveTurn_i (a : AgentStep) (s : State) : (s.giveTurn a).i = s.i := rfl
@[simp] theorem giveTurn_t (a : AgentStep) (s : State) : (s.giveTurn a).t = s.t := rfl
@[simp] theorem giveTurn_tail (a : AgentStep) (s : State) : (s.giveTurn a).tail = s.tail := rfl
@[simp] theorem giveTurn_ph (a : AgentStep) (s : State) : (s.giveTurn a).ph = s.ph := rfl
@[simp] theorem giveTurn_prog (a : AgentStep) (s : State) : (s.giveTurn a).prog = s.prog := rfl
@[simp] theorem giveTurn_pcmd (a : AgentStep) (s : State) : (s.giveTurn a).pcmd = s.pcmd := rfl
@[simp] theorem giveTurn_txFifo (a : AgentStep) (s : State) : (s.giveTurn a).txFifo = s.txFifo := rfl
@[simp] theorem giveTurn_wire (a : AgentStep) (s : State) : (s.giveTurn a).wire = s.wire := rfl
@[simp] theorem giveTurn_owed (a : AgentStep) (s : State) : (s.giveTurn a).owed = s.owed := rfl
@[simp] theorem giveTurn_uartIFLS (a : AgentStep) (s : State) : (s.giveTurn a).uartIFLS = s.uartIFLS := rfl
@[simp] theorem giveTurn_uartIMSC (a : AgentStep) (s : State) : (s.giveTurn a).uartIMSC = s.uartIMSC := rfl
@[simp] theorem giveTurn_uartRIS (a : AgentStep) (s : State) : (s.giveTurn a).uartRIS = s.uartRIS := rfl
@[simp] theorem giveTurn_uartCR (a : AgentStep) (s : State) : (s.giveTurn a).uartCR = s.uartCR := rfl
@[simp] theorem giveTurn_uartLCRH (a : AgentStep) (s : State) : (s.giveTurn a).uartLCRH = s.uartLCRH := rfl
@[simp] theorem giveTurn_uartIBRD (a : AgentStep) (s : State) : (s.giveTurn a).uartIBRD = s.uartIBRD := rfl
@[simp] theorem giveTurn_uartFBRD (a : AgentStep) (s : State) : (s.giveTurn a).uartFBRD = s.uartFBRD := rfl
@[simp] theorem giveTurn_uartFRIn (a : AgentStep) (s : State) : (s.giveTurn a).uartFRIn = s.uartFRIn := rfl
@[simp] theorem giveTurn_cpuIrqEn (a : AgentStep) (s : State) : (s.giveTurn a).cpuIrqEn = s.cpuIrqEn := rfl
@[simp] theorem giveTurn_lineEn (a : AgentStep) (s : State) : (s.giveTurn a).lineEn = s.lineEn := rfl
@[simp] theorem giveTurn_faults (a : AgentStep) (s : State) : (s.giveTurn a).faults = s.faults := rfl
@[simp] theorem giveTurn_refusals (a : AgentStep) (s : State) : (s.giveTurn a).refusals = s.refusals := rfl
@[simp] theorem giveTurn_params (a : AgentStep) (s : State) : (s.giveTurn a).params = s.params := rfl
@[simp] theorem giveTurn_tick (a : AgentStep) (s : State) : (s.giveTurn a).tick = s.tick := rfl
@[simp] theorem giveTurn_trace (a : AgentStep) (s : State) : (s.giveTurn a).trace = s.trace := rfl

@[simp] theorem giveTurn_turn (a : AgentStep) (s : State) : (s.giveTurn a).turn = .agent a := rfl

@[simp] theorem byteAt_giveTurn (a : AgentStep) (s : State) (k : Nat) : (s.giveTurn a).byteAt k = s.byteAt k := rfl

@[simp] theorem fetch_giveTurn (a b : AgentStep) (s : State) :
    fetch (.agent b) (s.giveTurn a) = fetch (.agent b) s := by cases b <;> rfl

@[simp] theorem fairEnabled_giveTurn (a b : AgentStep) (s : State) :
    (s.giveTurn a).fairEnabled b = s.fairEnabled b := by cases b <;> rfl

/-- What every agent's step keeps holds throughout a run. -/
theorem run_invariant {P : State → Prop} {sched : Nat → AgentStep} {r : Nat → State} (hr : IsRun sched r) (h0 : P (r 0))
    (hstep : ∀ a s s', P s → step (s.giveTurn a) = .next s' → P s') (n : Nat) : P (r n) := by
  induction n with
  | zero => exact h0
  | succ n ih => exact hstep _ _ _ ih (hr n)

end Sys2Proof.Machine
end

