-- ==== Sys2Proof/Laws/PerInstr.lean ====
section
/-! SUPPORT. Per-operation facts: the head of each operation's bytes is its row of spec/opcode_table.json, the row's fixed field
(`hi`, `lo`, `value`). -/

namespace Sys2Proof.Laws.TableRow

/-- The number that the opcode table reads from the head of an operation's bytes (30_encoding.md R64, R65; log 9). -/
def headNumber (f : Format) (bs : List Byte) : Nat :=
  match f with
  | .cmd => (bs.getD 0 0).toNat * 256 + (bs.getD 1 0).toNat
  | .ph | .evt => (bs.getD 0 0).toNat
  | .regw => (bs.getD 0 0).toNat + (bs.getD 1 0).toNat * 256

/-- The fixed field `hi`, `lo`, `value` of an operation's row. -/
def fixedField : Instr → Nat × Nat × Nat
  | .initAsync => (15, 0, 256) | .enqueue _ => (15, 8, 2) | .enqueueLine _ => (15, 8, 3)
  | .e1Wait => (3, 0, 1) | .e2Lock => (3, 0, 2) | .e3Guard => (3, 0, 3) | .e4aCopy => (3, 0, 4)
  | .e4bTerm => (3, 0, 5) | .e5Cursor => (3, 0, 6) | .e6Unlock => (3, 0, 7) | .e7aKickRead => (3, 0, 8)
  | .e7bKickWrite => (3, 0, 9) | .i1InitIfls => (3, 0, 10) | .i2InitImsc => (3, 0, 11) | .i3InitLine => (3, 0, 12)
  | .drainSkip => (7, 0, 129) | .drainSend => (7, 0, 130) | .drainRetire => (7, 0, 131)
  | .devTxEvent => (7, 0, 144) | .devShift => (7, 0, 145) | .hostRxEvent => (7, 0, 160)
  | .drWrite _ => (11, 0, 0) | .iflsWrite _ => (11, 0, 52) | .imscWrite _ => (11, 0, 56) | .icrTx _ => (11, 0, 68)

/-- The field `hi` down to `lo` of a number. -/
def field (w hi lo : Nat) : Nat := w / 2 ^ lo % 2 ^ (hi + 1 - lo)

/-- The operation's bytes carry its row's fixed bits. -/
abbrev Statement (i : Instr) : Prop :=
  field (headNumber i.format (encode i)) (fixedField i).1 (fixedField i).2.1 = (fixedField i).2.2

theorem header_field {opc : Nat} {len : Byte} (h : opc < 256) : field (opc * 256 + len.toNat) 15 8 = opc := by
  have := len.isLt
  simp only [field]
  omega

theorem initAsync : Statement .initAsync := by decide
theorem enqueue (m : List Byte) : Statement (.enqueue m) := header_field (opc := 2) (by decide)
theorem enqueueLine (m : List Byte) : Statement (.enqueueLine m) := header_field (opc := 3) (by decide)
theorem e1Wait : Statement .e1Wait := by decide
theorem e2Lock : Statement .e2Lock := by decide
theorem e3Guard : Statement .e3Guard := by decide
theorem e4aCopy : Statement .e4aCopy := by decide
theorem e4bTerm : Statement .e4bTerm := by decide
theorem e5Cursor : Statement .e5Cursor := by decide
theorem e6Unlock : Statement .e6Unlock := by decide
theorem e7aKickRead : Statement .e7aKickRead := by decide
theorem e7bKickWrite : Statement .e7bKickWrite := by decide
theorem i1InitIfls : Statement .i1InitIfls := by decide
theorem i2InitImsc : Statement .i2InitImsc := by decide
theorem i3InitLine : Statement .i3InitLine := by decide
theorem drainSkip : Statement .drainSkip := by decide
theorem drainSend : Statement .drainSend := by decide
theorem drainRetire : Statement .drainRetire := by decide
theorem devTxEvent : Statement .devTxEvent := by decide
theorem devShift : Statement .devShift := by decide
theorem hostRxEvent : Statement .hostRxEvent := by decide
theorem drWrite (v : Word) : Statement (.drWrite v) := by simp [Statement, headNumber, Instr.format, encode, fixedField, field]
theorem iflsWrite (v : Word) : Statement (.iflsWrite v) := by simp [Statement, headNumber, Instr.format, encode, fixedField, field]
theorem imscWrite (v : Word) : Statement (.imscWrite v) := by simp [Statement, headNumber, Instr.format, encode, fixedField, field]
theorem icrTx (v : Word) : Statement (.icrTx v) := by simp [Statement, headNumber, Instr.format, encode, fixedField, field]

end Sys2Proof.Laws.TableRow
end

