-- ==== Sys2Proof/Tests/Slice0.lean ====
section
/-! SUPPORT. The model's own tests. Expected results come from the tables of spec/30_encoding.md and the vectors of
spec/95_test_vectors.md (V-…), never from the model; a `witness_…` theorem shows a state and operands that meet the
hypotheses of the statement it names. -/

namespace Sys2Proof.Tests

open Sys2Proof.Machine Sys2Proof.Config

/-! ### Helpers -/

/-- The state that a next outcome carries meets a test. -/
def nextMeets (r : Result) (test : State → Bool) : Bool :=
  match r with
  | .next s => test s
  | .fault _ => false
  | .refused _ => false

/-- A state at a phase. -/
def atPh (p : Phase) : State := State.reset.setPh p

/-- A state with a launched program. -/
def launched (prog : List Byte) : State := { State.reset with prog := prog }

/-- A state in which the Drain may be dispatched. -/
def dispatching : State := { State.reset with lineEn := true, uartIMSC := 0x30#32, uartRIS := 0x20#32 }

/-- The program P1 of 95_test_vectors.md. -/
def progP1 : List Byte := [0x01#8, 0x00#8, 0x02#8, 0x02#8, 0x48#8, 0x69#8]

/-- P1 after its step 16: the message "Hi" is loaded and its first byte is in the FIFO. -/
def draining : State :=
  { launched progP1 with
      bytes := [(0, 0x48#8), (1, 0x69#8)], cursor := 1, msg := [0x48#8, 0x69#8], i := 2, t := 0x48#8, pcmd := 2,
      txFifo := [0x48#8], owed := 1, uartIFLS := 0x20#32, uartIMSC := 0x30#32, lineEn := true }

/-- A full FIFO. -/
def full : List Byte := List.replicate 16 0x55#8

/-! ### Well-formedness: ill-formed terms that the check refuses -/

theorem test_enqueue_256_bytes_ill_formed :
    (Instr.enqueue (List.replicate 256 0x41#8)).wellFormed = false := by
  show decide ((List.replicate 256 0x41#8).length ≤ 255) = false
  rw [List.length_replicate]; decide
theorem test_enqueueLine_256_bytes_ill_formed :
    (Instr.enqueueLine (List.replicate 256 0x41#8)).wellFormed = false := by
  show decide ((List.replicate 256 0x41#8).length ≤ 255) = false
  rw [List.length_replicate]; decide
theorem test_enqueue_255_bytes_well_formed :
    (Instr.enqueue (List.replicate 255 0x41#8)).wellFormed = true := by
  show decide ((List.replicate 255 0x41#8).length ≤ 255) = true
  rw [List.length_replicate]; decide
theorem test_core_emits_no_wide_dr : (Instr.drWrite 0x141#32).coreEmits = false := by decide
theorem test_core_emits_no_other_ifls : (Instr.iflsWrite 0x12#32).coreEmits = false := by decide
theorem test_core_emits_no_other_imsc : (Instr.imscWrite 0x3F#32).coreEmits = false := by decide
theorem test_core_emits_no_other_icr : (Instr.icrTx 0x30#32).coreEmits = false := by decide

/-! ### Decoding: words written out from the encoding tables (R65 to R79) -/

/-- Commands (R65 to R69; V-C1, V-C7, V-C8). -/
theorem test_decode_commands :
    decode .cmd [0x01#8, 0x00#8, 0xAA#8] = .ok (.initAsync, [0xAA#8]) ∧
    decode .cmd [0x02#8, 0x02#8, 0x48#8, 0x69#8] = .ok (.enqueue [0x48#8, 0x69#8], []) ∧
    decode .cmd [0x03#8, 0x02#8, 0x4F#8, 0x4B#8] = .ok (.enqueueLine [0x4F#8, 0x4B#8], []) := by decide

/-- Reserved and truncated commands (R70; V-C2 to V-C5, V-C9, V-C10). -/
theorem test_decode_refused_commands :
    decode .cmd [0x01#8, 0x05#8] = .error .reservedCommand ∧ decode .cmd [0x00#8, 0x00#8] = .error .reservedCommand ∧
    decode .cmd [0x04#8, 0x00#8] = .error .reservedCommand ∧ decode .cmd [0xFF#8, 0x10#8] = .error .reservedCommand ∧
    decode .cmd [0x02#8, 0x03#8, 0x41#8, 0x42#8] = .error .truncatedCommand ∧
    decode .cmd [0x02#8] = .error .truncatedCommand := by decide

/-- Every phase code (R72). -/
theorem test_decode_phases_enqueue :
    decode .ph [0x01#8] = .ok (.e1Wait, []) ∧ decode .ph [0x02#8] = .ok (.e2Lock, []) ∧
    decode .ph [0x03#8] = .ok (.e3Guard, []) ∧ decode .ph [0x04#8] = .ok (.e4aCopy, []) ∧
    decode .ph [0x05#8] = .ok (.e4bTerm, []) ∧ decode .ph [0x06#8] = .ok (.e5Cursor, []) := by decide
theorem test_decode_phases_kick_and_init :
    decode .ph [0x07#8] = .ok (.e6Unlock, []) ∧ decode .ph [0x08#8] = .ok (.e7aKickRead, []) ∧
    decode .ph [0x09#8] = .ok (.e7bKickWrite, []) ∧ decode .ph [0x0A#8] = .ok (.i1InitIfls, []) ∧
    decode .ph [0x0B#8] = .ok (.i2InitImsc, []) ∧ decode .ph [0x0C#8] = .ok (.i3InitLine, []) := by decide

/-- The three reserved phase codes (R73). -/
theorem test_decode_reserved_phases :
    decode .ph [0x0D#8] = .error (.reservedPhase 0xD#4) ∧ decode .ph [0x0E#8] = .error (.reservedPhase 0xE#4) ∧
    decode .ph [0x0F#8] = .error (.reservedPhase 0xF#4) := by decide

/-- The event codes of the Drain, the device and the Host (R74). -/
theorem test_decode_events :
    decode .evt [0x81#8] = .ok (.drainSkip, []) ∧ decode .evt [0x82#8] = .ok (.drainSend, []) ∧
    decode .evt [0x83#8] = .ok (.drainRetire, []) ∧ decode .evt [0x90#8] = .ok (.devTxEvent, []) ∧
    decode .evt [0x91#8] = .ok (.devShift, []) ∧ decode .evt [0xA0#8] = .ok (.hostRxEvent, []) := by decide

/-- The register writes at their offsets (R75 to R79). -/
theorem test_decode_writes :
    decode .regw [0x00#8, 0x00#8, 0x69#8, 0x00#8, 0x00#8, 0x00#8] = .ok (.drWrite 0x69#32, []) ∧
    decode .regw [0x34#8, 0x00#8, 0x20#8, 0x00#8, 0x00#8, 0x00#8] = .ok (.iflsWrite 0x20#32, []) ∧
    decode .regw [0x38#8, 0x00#8, 0x30#8, 0x00#8, 0x00#8, 0x00#8] = .ok (.imscWrite 0x30#32, []) ∧
    decode .regw [0x44#8, 0x00#8, 0x20#8, 0x00#8, 0x00#8, 0x00#8] = .ok (.icrTx 0x20#32, []) := by decide

/-- Rows of spec/opcode_table.json, one of each format. -/
theorem test_table_words :
    decodeTableWord 16 0x0100 = some .initAsync ∧ decodeTableWord 16 0x0200 = some (.enqueue []) ∧
    decodeTableWord 8 0x09 = some .e7bKickWrite ∧ decodeTableWord 8 0x83 = some .drainRetire ∧
    decodeTableWord 16 0x044 = some (.icrTx 0) := by decide

/-- A table word placed with `withFetchWord` is what the next step runs. -/
theorem test_fetch_word :
    nextMeets (step (State.reset.withFetchWord 8 0x02)) (fun s => s.locked && s.trace == [0x12#8]) = true ∧
    nextMeets (step (State.reset.withFetchWord 8 0x82)) (fun s => s.trace == [0x82#8]) = true := by decide

/-! ### Commands (V-A1 to V-A5) -/

theorem test_accept_enqueue :
    nextMeets (exec (.enqueue [0x48#8, 0x69#8]) (launched [0x02#8, 0x02#8, 0x48#8, 0x69#8]))
      (fun s => s.msg == [0x48#8, 0x69#8] && !s.tail && s.pcmd == 1 && s.ph == 0x1#4) = true := by decide
theorem test_accept_enqueueLine :
    nextMeets (exec (.enqueueLine [0x4F#8, 0x4B#8]) (launched [0x03#8, 0x02#8, 0x4F#8, 0x4B#8]))
      (fun s => s.msg == [0x4F#8, 0x4B#8] && s.tail && s.ph == 0x1#4) = true := by decide
theorem test_accept_initAsync :
    nextMeets (exec .initAsync (launched [0x01#8, 0x00#8])) (fun s => s.ph == 0xA#4 && s.pcmd == 1) = true := by decide
theorem test_no_host_step_at_copy : ((launched progP1).setPh .copy).enabled .host = false := by decide
theorem test_no_host_step_at_end : ({ launched progP1 with pcmd := 2 }).enabled .host = false := by decide

/-! ### Enqueue micro-steps (V-E1 to V-E20) -/

theorem test_e1_spins :
    nextMeets (exec .e1Wait { atPh .wait with bytes := [(0, 0x48#8)] }) (fun s => s.ph == 0x1#4) = true := by decide
theorem test_e1_ignores_cursor :
    nextMeets (exec .e1Wait { atPh .wait with cursor := 1 }) (fun s => s.ph == 0x2#4) = true := by decide
theorem test_e2_locks : nextMeets (exec .e2Lock (atPh .lock)) (fun s => s.locked && s.ph == 0x3#4) = true := by decide
theorem test_e3_guard :
    nextMeets (exec .e3Guard { atPh .guard with bytes := [(1, 0x69#8)], i := 9 })
      (fun s => s.byteAt 1 == 0x00#8 && s.i == 0 && s.ph == 0x4#4) = true := by decide
theorem test_e4a_stops_at_limit :
    nextMeets (exec .e4aCopy { atPh .copy with msg := List.replicate 70 0x41#8, i := 63 })
      (fun s => s.ph == 0x5#4 && s.bytes == []) = true := by decide
theorem test_e4a_copies_zero_where_allowed :
    nextMeets (exec .e4aCopy { atPh .copy with msg := [0x41#8, 0x00#8, 0x42#8], i := 1, bytes := [(1, 0x77#8)],
                                                params := { Params.reference with copyStopsAtZero := false } })
      (fun s => s.byteAt 1 == 0x00#8 && s.i == 2 && s.ph == 0x4#4) = true := by decide
theorem test_e4b_appends :
    nextMeets (exec .e4bTerm { atPh .term with i := 2, bytes := [(2, 0x7F#8)] })
      (fun s => s.byteAt 2 == 0x00#8 && s.ph == 0x6#4) = true := by decide
theorem test_e4b_highest_offset :
    nextMeets (exec .e4bTerm { atPh .term with i := 63, bytes := [(63, 0x7F#8)] })
      (fun s => s.byteAt 63 == 0x00#8 && s.ph == 0x6#4) = true := by decide
theorem test_e5_cursor : nextMeets (exec .e5Cursor (atPh .cursor)) (fun s => s.cursor == 1 && s.ph == 0x7#4) = true := by
  decide
theorem test_e6_unlocks :
    nextMeets (exec .e6Unlock { atPh .unlock with locked := true }) (fun s => !s.locked && s.ph == 0x8#4) = true := by
  decide
theorem test_e7a_latches :
    nextMeets (exec .e7aKickRead { atPh .kickRead with bytes := [(0, 0x48#8)] })
      (fun s => s.t == 0x48#8 && s.ph == 0x9#4) = true := by decide
theorem test_e7b_starts_second_half :
    nextMeets (exec .e7bKickWrite { atPh .kickWrite with t := 0x4F#8, tail := true })
      (fun s => s.txFifo == [0x4F#8] && s.owed == 1 && !s.tail && s.msg == [0x0D#8, 0x0A#8] && s.ph == 0x1#4) = true := by
  decide
theorem test_e7b_overflow_goes_on :
    nextMeets (exec .e7bKickWrite { atPh .kickWrite with t := 0x48#8, txFifo := full })
      (fun s => s.faults == [.txOverflow 0x48#8 .producer] && s.txFifo == full && s.owed == 0 && s.ph == 0x0#4) = true := by
  decide

/-! ### The Drain (V-D1 to V-D10) -/

theorem test_drain_skip :
    nextMeets (exec .drainSkip { State.reset with locked := true, cursor := 1, uartRIS := 0x30#32 })
      (fun s => s.uartRIS == 0x10#32 && s.cursor == 1 && s.bytes == []) = true := by decide
theorem test_drain_send :
    nextMeets (exec .drainSend { State.reset with cursor := 62, bytes := [(62, 0x43#8)], uartRIS := 0x20#32 })
      (fun s => s.txFifo == [0x43#8] && s.owed == 1 && s.cursor == 63 && s.uartRIS == 0) = true := by decide
theorem test_drain_send_overflow_goes_on :
    nextMeets (exec .drainSend { State.reset with cursor := 1, bytes := [(1, 0x42#8)], txFifo := full })
      (fun s => s.faults == [.txOverflow 0x42#8 .drain] && s.txFifo == full && s.cursor == 2) = true := by decide
theorem test_drain_retire :
    nextMeets (exec .drainRetire { State.reset with cursor := 2, bytes := [(0, 0x48#8)] })
      (fun s => s.byteAt 0 == 0x00#8 && s.cursor == 0) = true := by decide
theorem test_drain_retire_cursor_64 :
    nextMeets (exec .drainRetire { State.reset with cursor := 64, bytes := [(0, 0x48#8)] })
      (fun s => s.byteAt 0 == 0x00#8 && s.cursor == 0) = true := by decide
/-- V-U12 to V-U17: the dispatch condition. -/
theorem test_dispatch :
    dispatching.dispatchEnabled = true ∧ ({ dispatching with lineEn := false }).dispatchEnabled = false ∧
    ({ dispatching with uartIMSC := 0 }).dispatchEnabled = false ∧
    ({ dispatching with cpuIrqEn := false }).dispatchEnabled = false ∧
    ({ dispatching with uartRIS := 0x10#32 }).dispatchEnabled = true ∧
    ({ dispatching with uartRIS := 0x10#32, params := { Params.reference with rxInvokesDrain := false } }).dispatchEnabled
      = false := by decide

/-! ### Interrupt arming (V-I1 to V-I3) -/

/-- R121: whatever the earlier value, reserved bits too. -/
theorem test_i1 :
    nextMeets (exec .i1InitIfls { atPh .initIfls with uartIFLS := 0xFFFFFFDB#32 })
      (fun s => s.uartIFLS == 0x20#32 && s.txTrig == some 2 && s.ph == 0xB#4) = true := by decide
/-- R117 and R121: whatever the earlier value, reserved bits too. -/
theorem test_i2 :
    nextMeets (exec .i2InitImsc { atPh .initImsc with uartRIS := 0x20#32, uartIMSC := 0xFFFFFFCF#32 })
      (fun s => s.uartIMSC == 0x30#32 && s.uartMIS == 0x20#32 && s.ph == 0xC#4) = true := by decide
theorem test_i3 : nextMeets (exec .i3InitLine (atPh .initLine)) (fun s => s.lineEn && s.ph == 0x0#4) = true := by decide

/-! ### The device and the register writes (V-U1 to V-U11) -/

theorem test_dr_write :
    nextMeets (exec (.drWrite 0x141#32) State.reset) (fun s => s.txFifo == [0x41#8] && s.owed == 1) = true := by decide
theorem test_icr_write :
    nextMeets (exec (.icrTx 0x20#32) { State.reset with uartRIS := 0x30#32 }) (fun s => s.uartRIS == 0x10#32) = true := by
  decide
theorem test_imsc_write :
    nextMeets (exec (.imscWrite 0xFFFFFFFF#32) State.reset) (fun s => s.uartIMSC == 0x7FF#32) = true := by decide
theorem test_ifls_write :
    nextMeets (exec (.iflsWrite 0x03#32) State.reset) (fun s => s.uartIFLS == 0x03#32 && s.txTrig == some 12) = true := by
  decide
theorem test_ifls_reserved :
    nextMeets (exec (.iflsWrite 0x05#32) State.reset)
      (fun s => s.uartIFLS == 0x12#32 && s.refusals == [.reservedIfls] && s.refused) = true := by decide
theorem test_tx_event :
    nextMeets (exec .devTxEvent { State.reset with owed := 2, uartRIS := 0x20#32 })
      (fun s => s.uartRIS == 0x20#32 && s.owed == 1) = true := by decide
/-- V-U3 to V-U6. -/
theorem test_tx_event_enabled :
    ({ draining with txFifo := [1, 2, 3] }).enabled .txEvent = false ∧
    ({ draining with txFifo := [1, 2] }).enabled .txEvent = true ∧
    ({ draining with owed := 0 }).enabled .txEvent = false ∧
    ({ draining with owed := 0, params := { Params.reference with txEventMode := .any } }).enabled .txEvent = true := by
  decide
theorem test_shift :
    nextMeets (exec .devShift { State.reset with txFifo := [0x48#8, 0x69#8] })
      (fun s => s.txFifo == [0x69#8] && s.wire == [0x48#8]) = true := by decide
theorem test_rx_event :
    nextMeets (exec .hostRxEvent { State.reset with params := { Params.reference with rxTraffic := true } })
      (fun s => s.uartRIS == 0x10#32) = true := by decide
/-- R36: TXFE and TXFF follow the FIFO level. -/
theorem test_flag_register :
    State.reset.uartFR = 0x90#32 ∧ ({ State.reset with txFifo := full }).uartFR = 0x30#32 := by decide

/-- 93_implementation_defined.md U27: a launch with FEN = 0, or with the transmitter disabled, is refused, and its command
is not accepted. -/
theorem test_refused_launch :
    let s : State := { launched progP1 with turns := [.agent .host] }
    nextMeets (step s) (fun t => !t.refused && t.pcmd == 1) = true ∧
    nextMeets (step { s with uartLCRH := 0x60#32 }) (fun t => t.refused && t.pcmd == 0) = true ∧
    nextMeets (step { s with uartCR := 0x0201#32 }) (fun t => t.refused && t.pcmd == 0) = true := by decide

/-! ### Witnesses: a state and operands that meet the hypotheses of each statement, clause by clause -/

/-- A state with one turn scheduled. -/
def withTurn (turn : Turn) (s : State) : State := { s with turns := [turn] }

theorem witness_DecodeEncodeAgree : (Instr.enqueue (List.replicate 255 0x41#8)).wellFormed = true ∧
    (Instr.enqueue []).wellFormed = true ∧ (Instr.drWrite 0xFFFFFFFF#32).wellFormed = true :=
  ⟨test_enqueue_255_bytes_well_formed, by decide, by decide⟩

theorem witness_EncodeDecodeAgree :
    decode .cmd [0x02#8, 0x00#8, 0x01#8, 0x00#8] = .ok (.enqueue [], [0x01#8, 0x00#8]) := by decide

theorem witness_ReservedAndTruncatedCommandsAreRefused :
    4 ≤ (0x04#8).toNat ∧ 4 ≤ (0xFF#8).toNat ∧ 0x05#8 ≠ 0#8 ∧ ([] : List Byte).length < (0x01#8).toNat ∧
    (withTurn (.agent .host) (launched [0x04#8, 0x00#8])).turn = .agent .host ∧
    (withTurn (.agent .host) (launched [0x04#8, 0x00#8])).atPhase .ready = true ∧
    (launched [0x04#8, 0x00#8]).uartInitialised = true ∧
    (launched [0x04#8, 0x00#8]).nextCommand = .error .reservedCommand ∧
    (launched [0x02#8]).nextCommand = .error .truncatedCommand := by decide

theorem witness_ReservedPhasesFaultAndAreNeverWritten :
    0xD ≤ (withTurn (.agent .producer) { State.reset with ph := 0xD }).ph.toNat ∧
    (withTurn (.agent .producer) { State.reset with ph := 0xD }).turn = .agent .producer ∧
    (withTurn (.agent .producer) { State.reset with ph := 0xD }).uartInitialised = true ∧
    ∃ s', step (withTurn (.agent .producer) { State.reset with ph := 0xD }) = .next s' ∧ 0xD ≤ s'.ph.toNat :=
  ⟨by decide, by decide, by decide, _, rfl, by decide⟩

theorem witness_StepRunsTheDecodedOperation :
    (draining.uartLCRH.getLsbD 4 && draining.uartCR.getLsbD 0 && draining.uartCR.getLsbD 8) = true ∧
    ((0x60#32).getLsbD 4 && draining.uartCR.getLsbD 0 && draining.uartCR.getLsbD 8) = false ∧
    dispatching.uartInitialised = true ∧
    commandAt progP1 1 = .ok (.enqueue [0x48#8, 0x69#8]) ∧ decode .ph [0x09#8] = .ok (.e7bKickWrite, []) ∧
    dispatching.dispatchEnabled = true ∧ draining.txTrig = some 2 ∧ draining.txEventEnabled 2 = true ∧
    draining.shiftEnabled = true ∧ decodeWrite 0x044#12 0x20#32 = .ok (.icrTx 0x20#32) ∧
    (withTurn (.bus (State.reset.params.uartBase + (0x044#12).setWidth 32) 4 0x20#32) State.reset).turn =
      .bus (State.reset.params.uartBase + (0x044#12).setWidth 32) 4 0x20#32 := by decide

theorem witness_DisabledTurnChangesNothing :
    (withTurn (.agent .drain) State.reset).turn = .agent .drain ∧
    (withTurn (.agent .drain) State.reset).enabled .drain = false := by decide

theorem witness_NotEnabledOperationWaits :
    State.reset.accepts .initAsync = false ∧ State.reset.ph ≠ Phase.wait.code ∧ State.reset.drainOutcome ≠ .send ∧
    State.reset.txTrig = some 8 ∧ State.reset.txEventEnabled 8 = false ∧ State.reset.shiftEnabled = false ∧
    State.reset.params.rxTraffic = false ∧ ({ State.reset with uartIFLS := 0x15#32 }).txTrig = none := by decide

/-- For every statement about one step: a step that answers a next state (here one that the Drain takes). -/
theorem witness_step : ∃ s', step (withTurn (.agent .drain) { draining with uartRIS := 0x20#32 }) = .next s' ∧
    s'.cursor ≠ draining.cursor ∧ s'.trace = [0x82#8] := ⟨_, rfl, by decide, by decide⟩

theorem witness_LaunchStateNeverChanges :
    draining.lineEn = true ∧ ∃ s', step (withTurn (.agent .shift) draining) = .next s' ∧ s'.wire = [0x48#8] :=
  ⟨by decide, _, rfl, by decide⟩

theorem witness_MarksAreSticky :
    ({ draining with refusals := [.secondProducer] }).unmarked = false ∧
    ∃ s', step (withTurn (.agent .shift) { draining with refusals := [.secondProducer] }) = .next s' :=
  ⟨by decide, _, rfl⟩

theorem witness_InitAsyncIsAccepted :
    (launched progP1).ph = Phase.ready.code ∧ commandAt (launched progP1).prog (launched progP1).pcmd = .ok .initAsync := by
  decide

theorem witness_EnqueueCommandsAreAccepted :
    commandAt [0x02#8, 0x00#8] 0 = .ok (.enqueue []) ∧ commandAt [0x03#8, 0x01#8, 0x41#8] 0 = .ok (.enqueueLine [0x41#8]) := by
  decide

theorem witness_CommandsOnlyAtReady :
    (atPh .initLine).uartInitialised = true ∧
    (withTurn (.agent .host) (atPh .initLine)).turn = .agent .host ∧ (atPh .initLine).ph ≠ Phase.ready.code ∧
    (withTurn .secondProducer State.reset).turn = .secondProducer := by decide

/-- The states at each phase, for the micro-step statements. -/
theorem witness_phases : (atPh .wait).ph = Phase.wait.code ∧ (atPh .lock).ph = Phase.lock.code ∧
    (atPh .unlock).ph = Phase.unlock.code ∧ (atPh .cursor).ph = Phase.cursor.code ∧
    (atPh .kickRead).ph = Phase.kickRead.code ∧ (atPh .initIfls).ph = Phase.initIfls.code ∧
    (atPh .initImsc).ph = Phase.initImsc.code ∧ (atPh .initLine).ph = Phase.initLine.code := by decide

theorem witness_GuardWritesSentinelAtOne :
    (atPh .guard).ph = Phase.guard.code ∧ Memory.wf draining.bytes = true := by decide

theorem witness_CopyMovesOneByte :
    let s : State := { atPh .copy with msg := List.replicate 70 0x41#8, i := 62 }
    s.ph = Phase.copy.code ∧ Memory.wf s.bytes = true ∧ s.i.toNat < 63 ∧ s.msg[s.i.toNat]? = some 0x41#8 ∧
    63 ≤ ({ s with i := 63 }).i.toNat ∧ ({ s with msg := [], i := 0 }).msg.length ≤ 0 ∧
    ([0x00#8] : List Byte)[0]? = some 0x00#8 := by decide

theorem witness_SentinelIsAppended :
    let s : State := { atPh .term with i := 63 }
    s.ph = Phase.term.code ∧ s.i.toNat < 64 ∧ Memory.wf s.bytes = true := by decide

theorem witness_OnlyAnOffsetOutsideTheBufferStops :
    let s : State := { atPh .term with i := 64 }
    s.ph = Phase.term.code ∧ 64 ≤ s.i.toNat := by decide

/-- The first address behind the block, a register without a write effect, and E4b at 64: each clause is met. -/
theorem witness_WhatStopsTheMachine :
    step (withTurn (.bus 0x20201048#32 4 0#32) State.reset) = .refused (.outsideUart 0x20201048#32) ∧
    step (withTurn (.bus 0x20201040#32 4 0#32) State.reset) = .refused (.noWriteEffect 0x040#32) ∧
    step (withTurn (.agent .producer) { atPh .term with i := 64 }) = .fault (.bufferOffset 64) :=
  ⟨by rfl, by rfl, by rfl⟩

theorem witness_KickWriteSendsTheLatch :
    let s : State := { atPh .kickWrite with tail := true }
    s.ph = Phase.kickWrite.code ∧ s.tail = true ∧ s.txFifo.length ≠ 16 ∧ full.length = 16 := by decide

theorem witness_InitAsyncEffect :
    (atPh .initIfls).ph = Phase.initIfls.code ∧
    let s : State := { atPh .initIfls with uartIFLS := 0x20#32, uartIMSC := 0x030#32, lineEn := true }
    s.ph = Phase.initIfls.code ∧ s.uartIFLS = 0x20#32 ∧ s.uartIMSC = 0x030#32 ∧ s.lineEn = true := by decide

theorem witness_LoadStoresTheMessage :
    let s : State := { atPh .guard with msg := [0x41#8, 0x00#8, 0x42#8], bytes := draining.bytes }
    s.ph = Phase.guard.code ∧ Memory.wf s.bytes = true ∧ s.params.copyStopsAtZero = true ∧
    storedPart true s.msg = [0x41#8] ∧ (storedPart true s.msg).length ≤ 1 := by decide

theorem witness_UninterruptedEnqueueSendsFirstByte :
    let s : State := atPh .wait
    s.ph = Phase.wait.code ∧ s.byteAt 0 = 0x00#8 ∧ Memory.wf s.bytes = true ∧ s.params.copyStopsAtZero = true ∧
    s.txFifo.length ≠ 16 ∧ s.tail = false ∧ storedPart true s.msg = [] := by decide

theorem witness_SendWritesTheCursorByte :
    let s : State := { State.reset with cursor := 63, bytes := [(63, 0x43#8)] }
    s.locked = false ∧ s.cursor.toNat < 64 ∧ s.byteAt s.cursor.toNat ≠ 0x00#8 ∧ s.txFifo.length ≠ 16 := by decide

theorem witness_RetireEmptiesTheBuffer :
    let s : State := { draining with cursor := 64 }
    s.locked = false ∧ 64 ≤ s.cursor.toNat ∧ Memory.wf s.bytes = true ∧
    ({ draining with cursor := 63 }).byteAt 63 = 0x00#8 := by decide

theorem witness_DispatchedDrainRunsToCompletion :
    let s : State := withTurn (.agent .drain) { draining with uartRIS := 0x20#32 }
    s.uartInitialised = true ∧ s.turn = .agent .drain ∧ s.dispatchEnabled = true ∧ Memory.wf s.bytes = true ∧ s.locked = false ∧
    s.cursor.toNat < 64 ∧ s.byteAt s.cursor.toNat ≠ 0x00#8 ∧ s.txFifo.length ≠ 16 := by decide

theorem witness_DrainDoesNotSeeItsCause :
    let u : State := { draining with ph := Phase.lock.code, uartRIS := 0x10#32, msg := [] }
    u.bytes = draining.bytes ∧ u.cursor = draining.cursor ∧ u.locked = draining.locked ∧ u.txFifo = draining.txFifo ∧
    u.owed = draining.owed ∧ u.faults = draining.faults ∧ u ≠ draining := by decide

theorem witness_TxEventRaisesTheCause :
    let s : State := { draining with txFifo := [0x48#8, 0x69#8] }
    s.uartInitialised = true ∧ s.txTrig = some 2 ∧ s.txFifo.length ≤ 2 ∧ s.params.txEventMode = .owed ∧ 0 < s.owed := by decide

theorem witness_TriggerLevels :
    5 ≤ (0b101#3).toNat ∧ 5 ≤ (0b111#3).toNat ∧ (atPh .initIfls).ph = Phase.initIfls.code := by decide

theorem witness_SkipOnlyAcknowledges : ({ draining with locked := true }).locked = true := by decide

theorem witness_RxEventRaisesTheCause :
    ({ State.reset with params := { Params.reference with rxTraffic := true } }).params.rxTraffic = true := by decide

theorem witness_ShiftMovesTheHeadToTheWire :
    draining.txFifo = 0x48#8 :: [] ∧ draining.uartCR.getLsbD 0 = true ∧ draining.uartCR.getLsbD 8 = true := by decide

theorem witness_DataWriteQueuesOrOverflows :
    State.reset.txFifo.length ≠ 16 ∧ ({ State.reset with txFifo := full }).txFifo.length = 16 := by decide

theorem witness_LevelSelectWrite :
    ((0x24#32).extractLsb' 0 3).toNat < 5 ∧ ((0x24#32).extractLsb' 3 3).toNat < 5 ∧
    5 ≤ ((0x05#32).extractLsb' 0 3).toNat ∧ 5 ≤ ((0x28#32).extractLsb' 3 3).toNat := by decide

theorem witness_MisalignedAccessIsRefused :
    State.reset.uartInitialised = true ∧
    (withTurn (.bus (State.reset.params.uartBase + 0x046#32) 4 0x20#32) State.reset).turn =
      .bus (State.reset.params.uartBase + 0x046#32) 4 0x20#32 ∧
    (0x046#32).toNat < 0x48 ∧ (0x046#32).toNat % 4 ≠ 0 := by decide

theorem witness_OtherAgentsLeaveTheBufferAlone :
    (∃ s', exec (.drWrite 0x41#32) draining = .next s') ∧ (Instr.drWrite 0x41#32).format = .regw ∧
    (∃ s', exec .initAsync (launched progP1) = .next s' ∧ s'.pcmd = 1) ∧ Instr.initAsync.format = .cmd :=
  ⟨⟨_, rfl⟩, rfl, ⟨_, rfl, by decide⟩, rfl⟩

/-- The launch premises, with a program. -/
theorem witness_Launched : (launched progP1).Launched := by constructor <;> decide

theorem witness_BufferInv : draining.BufferInv := by
  refine ⟨by decide, by decide, by decide, by decide, by decide, fun _ => ⟨2, by decide⟩, by decide, by decide⟩

theorem witness_WindowInv : draining.WindowInv := ⟨witness_BufferInv, by decide, by decide, by decide, by decide⟩

/-- The window itself, with the Drain dispatched, in the state that an empty message leaves (V-D9). -/
theorem witness_WindowIsBenign :
    let s : State := withTurn (.agent .drain) { dispatching with ph := Phase.lock.code, cursor := 1 }
    s.WindowInv ∧ s.ph = Phase.lock.code ∧ s.turn = .agent .drain ∧ s.dispatchEnabled = true ∧
      s.uartInitialised = true :=
  ⟨⟨⟨by decide, by decide, by decide, by decide, by decide, fun _ => ⟨1, by decide⟩, by decide, by decide⟩, by decide,
    by decide, fun _ _ => .inr ⟨by decide, by decide⟩, by decide⟩, by decide, by decide, by decide, by decide⟩

/-- Both targets of E7b: Draining, and Idle after a RETIRE in the kick phases. -/
theorem witness_BufferStateMachine :
    (atPh .lock).bufferPhase = .idle ∧ draining.bufferPhase = .draining ∧ (atPh .kickWrite).bufferPhase = .armed ∧
    nextMeets (step (withTurn (.agent .producer) (atPh .kickWrite))) (fun t => t.bufferPhase == .idle) = true ∧
    nextMeets (step (withTurn (.agent .producer) { draining with ph := Phase.kickWrite.code }))
      (fun t => t.bufferPhase == .draining) = true := by decide

theorem witness_CursorAdvancement :
    ∃ s', step (withTurn (.agent .producer) (atPh .cursor)) = .next s' ∧ s'.cursor ≠ (atPh .cursor).cursor :=
  ⟨_, rfl, by decide⟩

theorem witness_OffsetsWritten :
    let s : State := withTurn (.agent .producer) { atPh .copy with msg := List.replicate 63 0x41#8, i := 62 }
    Memory.wf s.bytes = true ∧ ∃ s', step s = .next s' ∧ s'.byteAt 62 ≠ s.byteAt 62 :=
  ⟨by decide, _, rfl, by decide⟩

/-- The three UARTDR writes: E7b's latch, SEND's byte, and a write standing alone on the bus. -/
theorem witness_WireKeepsWriteOrder :
    nextMeets (step (withTurn (.agent .producer) { draining with ph := Phase.kickWrite.code }))
      (fun t => t.txFifo == [0x48#8, 0x48#8]) = true ∧
    nextMeets (step (withTurn (.agent .drain) { draining with uartRIS := 0x20#32 }))
      (fun t => t.txFifo == [0x48#8, 0x69#8]) = true ∧
    nextMeets (step (withTurn (.bus draining.params.uartBase 4 0x141#32) draining))
      (fun t => t.txFifo == [0x48#8, 0x41#8]) = true := by decide

theorem witness_LockKeepsTheDrainOut :
    let s : State := withTurn (.agent .drain) { dispatching with locked := true }
    s.locked = true ∧ s.turn ≠ .agent .producer ∧ ∃ s', step s = .next s' ∧ s'.trace = [0x81#8] :=
  ⟨by decide, by decide, _, rfl, by decide⟩

theorem witness_SingleWriterInv : draining.SingleWriterInv 2 := by
  refine ⟨witness_WindowInv, by decide, by decide, by decide, by decide, ⟨2, by decide⟩, by decide, by decide, by decide,
    by decide, by decide, by decide, by decide⟩

/-- One state and one step for the statements that take an invariant and a step: StepKeepsBufferInvariant,
WindowIsBenign, BufferStateMachine and SingleWriterNeverOverflows. -/
theorem witness_SingleWriterNeverOverflows :
    let s : State := withTurn (.agent .shift) draining
    s.SingleWriterInv 2 ∧ (Phase.ofCode s.ph).isSome = true ∧ ∃ s', step s = .next s' ∧ s'.wire = [0x48#8] :=
  ⟨⟨⟨⟨by decide, by decide, by decide, by decide, by decide, fun _ => ⟨2, by decide⟩, by decide, by decide⟩, by decide,
    by decide, by decide, by decide⟩, by decide, by decide, by decide, by decide, ⟨2, by decide⟩, by decide, by decide,
    by decide, by decide, by decide, by decide, by decide⟩, by decide, _, rfl, by decide⟩

theorem witness_DeviceBooksBalance :
    let s : State := withTurn (.agent .shift) draining
    s.DeviceBooksInv ∧ ∃ s', step s = .next s' ∧ s'.trace = [0x91#8] :=
  ⟨by constructor <;> decide, _, rfl, by decide⟩

theorem witness_OutputIsExactAtEveryStep : draining.OutputInv 2 :=
  ⟨witness_SingleWriterInv, ⟨by decide, by decide, by decide, by decide, by decide⟩, by decide, by decide, by decide,
    by decide⟩

theorem witness_LaunchStatesMeetTheInvariants :
    (launched progP1).Launched ∧ (launched progP1).params.copyStopsAtZero = true ∧
    (launched progP1).params.txEventMode = .owed ∧ (launched progP1).onlyAgents = true ∧
    (launched progP1).params.rxTraffic = false ∧ noEmptyMessage true progP1 = true :=
  ⟨witness_Launched, by decide, by decide, by decide, by decide, by decide⟩

/-- The state of a next outcome, for runs that do not stop. -/
def nextState (r : Result) : State :=
  match r with
  | .next s => s
  | .fault _ => State.reset
  | .refused _ => State.reset

/-- A schedule for INIT_ASYNC alone: the Host, and then the Producer for ever. -/
def initSched : Nat → AgentStep
  | 0 => .host
  | _ + 1 => .producer

/-- Its run. -/
def initRun : Nat → State
  | 0 => launched [0x01#8, 0x00#8]
  | n + 1 => nextState (step ((initRun n).giveTurn (initSched n)))

theorem initRun_constant (n : Nat) : initRun (4 + n) = initRun 4 := by
  induction n with
  | zero => rfl
  | succ n ih =>
    have hsched : initSched (4 + n) = .producer := by rw [show 4 + n = (3 + n) + 1 by omega]; rfl
    rw [show 4 + (n + 1) = (4 + n) + 1 by omega, initRun, ih, hsched]; decide

theorem initRun_isRun : IsRun initSched initRun := by
  have stays : step ((initRun 4).giveTurn .producer) = .next (initRun 4) := by rfl
  intro n
  match n with
  | 0 => rfl
  | 1 => rfl
  | 2 => rfl
  | 3 => rfl
  | n + 4 =>
    rw [show n + 4 + 1 = 4 + (n + 1) by omega, Nat.add_comm n 4, initRun_constant, initRun_constant,
      show initSched (4 + n) = .producer by rw [show 4 + n = (3 + n) + 1 by omega]; rfl]
    exact stays

theorem initRun_weaklyFair : WeaklyFair initSched initRun := by
  have none_enabled : ∀ a, (initRun 4).fairEnabled a = false := by intro a; cases a <;> decide
  intro a n h
  have h4 := h (4 + n) (by omega)
  rw [initRun_constant, none_enabled] at h4
  cases h4

/-- The clause about weakly fair runs: INIT_ASYNC alone, final after four turns. -/
theorem witness_FinalWireIsTheProgramsOutput_fair :
    IsRun initSched initRun ∧ WeaklyFair initSched initRun ∧ (initRun 0).Launched ∧
    (initRun 0).params.copyStopsAtZero = true ∧ (initRun 0).params.txEventMode = .owed ∧
    (initRun 0).params.rxTraffic = false ∧ noEmptyMessage true (initRun 0).prog = true ∧
    (decodeStream (initRun 0).prog).2 = .endOfStream ∧
    (decodeStream (initRun 0).prog).1.head? = some .initAsync ∧ (initRun 4).final = true :=
  ⟨initRun_isRun, initRun_weaklyFair, by constructor <;> decide, by decide, by decide, by decide, by decide, by decide,
    by decide, by decide⟩

/-- The clause about every schedule, for INIT_ASYNC alone: the command and I1 to I3. -/
theorem witness_FinalWireIsTheProgramsOutput :
    let s : State := { launched [0x01#8, 0x00#8] with
      turns := [.agent .host, .agent .producer, .agent .producer, .agent .producer] }
    s.Launched ∧ s.params.copyStopsAtZero = true ∧ s.params.txEventMode = .owed ∧ s.onlyAgents = true ∧
    s.params.rxTraffic = false ∧ noEmptyMessage true s.prog = true ∧ ∃ t, steps 4 s = .next t ∧ t.final = true :=
  ⟨by constructor <;> decide, by decide, by decide, by decide, by decide, by decide, _, rfl, by decide⟩

/-- One round of the agents. -/
def round : List Turn := [.agent .host, .agent .producer, .agent .drain, .agent .txEvent, .agent .shift]

theorem witness_FairRoundsReachAFinalState :
    let rounds := List.replicate (279 * 2) round
    let s : State := { launched progP1 with turns := rounds.flatten }
    s.Launched ∧ s.params.copyStopsAtZero = true ∧ s.params.txEventMode = .owed ∧ s.params.rxTraffic = false ∧
    noEmptyMessage true s.prog = true ∧ (decodeStream s.prog).2 = .endOfStream ∧
    (decodeStream s.prog).1.head? = some .initAsync ∧ (∀ r ∈ rounds, fairRound r = true) ∧
    279 * (decodeStream s.prog).1.length ≤ rounds.length ∧ s.turns = rounds.flatten := by
  refine ⟨⟨rfl, rfl, rfl, rfl, rfl, rfl, rfl, rfl, rfl, rfl, rfl, rfl, rfl, rfl, rfl, rfl, by decide, by decide, rfl, rfl,
    rfl, rfl, rfl⟩, rfl, rfl, rfl, by decide, by decide, by decide, fun r hr => ?_, ?_, rfl⟩
  · rw [List.eq_of_mem_replicate hr]; decide
  · rw [List.length_replicate]; exact Nat.le_refl _

theorem witness_EnqueueBeforeInitHangs :
    let s : State := { atPh .wait with bytes := [(0, 0x41#8)] }
    s.lineEn = false ∧ s.ph = Phase.wait.code ∧ s.byteAt 0 ≠ 0x00#8 ∧ s.onlyAgents = true ∧
      s.uartInitialised = true := by decide

/-- A Producer that waits before INIT_ASYNC. -/
def spinning : State := { atPh .wait with bytes := [(0, 0x41#8)] }

/-- It, after `n` spins. -/
def spinRun (n : Nat) : State := { spinning with trace := List.replicate n 0x11#8 }

theorem fetch_any_trace (a : AgentStep) (s : State) (turns : List Turn) (trace : List Byte) :
    fetch (.agent a) { s with turns := turns, trace := trace } = fetch (.agent a) s := by cases a <;> rfl

theorem step_of_fetch {s : State} {i : Instr} (h : fetch s.turn s = .run i) : step s = exec i (s.passTurn.record i) := by
  simp only [step, h]

theorem spinRun_isRun : IsRun (fun _ => .producer) spinRun := by
  intro n
  have h : fetch (.agent .producer) ((spinRun n).giveTurn .producer) = .run .e1Wait :=
    (fetch_any_trace _ spinning _ _).trans (by decide)
  rw [step_of_fetch h]
  simp only [spinRun, List.replicate_succ']
  rfl

theorem spinRun_enabled (a : AgentStep) (n : Nat) : (spinRun n).fairEnabled a = spinning.fairEnabled a := by
  unfold State.fairEnabled State.enabled
  rw [show fetch (.agent a) (spinRun n) = fetch (.agent a) spinning from fetch_any_trace a spinning _ _]
  rfl

theorem spinRun_weaklyFair : WeaklyFair (fun _ => .producer) spinRun := by
  have only_producer : ∀ a, a ≠ .producer → spinning.fairEnabled a = false := by intro a; cases a <;> decide
  intro a n h
  by_cases ha : a = .producer
  · exact ⟨n, Nat.le_refl n, ha.symm⟩
  · have hn := h n (Nat.le_refl n)
    rw [spinRun_enabled, only_producer a ha] at hn
    cases hn

/-- The clause about weakly fair runs: the Producer alone spins for ever. -/
theorem witness_EnqueueBeforeInitHangs_fair :
    IsRun (fun _ => .producer) spinRun ∧ WeaklyFair (fun _ => .producer) spinRun ∧
    (spinRun 0).uartInitialised = true ∧ (spinRun 0).lineEn = false ∧ (spinRun 0).ph = Phase.wait.code ∧
    (spinRun 0).byteAt 0 ≠ 0x00#8 :=
  ⟨spinRun_isRun, spinRun_weaklyFair, by decide, by decide, by decide, by decide⟩

end Sys2Proof.Tests
end

section
/-! PROOFS. What a turn does (00_scope.md R8): it runs the operation decoded where it fetches, and where no step of its
agent is enabled it changes the schedule and the marks only. -/

namespace Sys2Proof.Machine

open Sys2Proof.Config

/-! ### Marks -/

theorem mem_refusals_refuse (s : State) (r : Refusal) : r ∈ (s.refuse r).refusals := by
  rw [refuse_refusals]
  split
  · next h => exact List.contains_iff_mem.1 h
  · exact List.mem_append_right _ (List.mem_singleton_self r)

@[simp] theorem refused_refuse (s : State) (r : Refusal) : (s.refuse r).refused = true := by
  have hne : (s.refuse r).refusals ≠ [] := List.ne_nil_of_mem (mem_refusals_refuse s r)
  simpa only [State.refused, Bool.not_eq_true', List.isEmpty_eq_false_iff] using hne

/-- `s'` is `s` but for added marks (10_state.md R43). -/
def State.MarksAdded (s s' : State) : Prop :=
  { s' with faults := s.faults, refusals := s.refusals } = s ∧ s.faults ⊆ s'.faults ∧ s.refusals ⊆ s'.refusals

theorem marksAdded_refl (s : State) : s.MarksAdded s :=
  ⟨rfl, List.Subset.refl _, List.Subset.refl _⟩

theorem marksAdded_refuse (s : State) (r : Refusal) : s.MarksAdded (s.refuse r) := by
  refine ⟨rfl, List.Subset.refl _, ?_⟩
  rw [refuse_refusals]
  split
  · exact List.Subset.refl _
  · exact List.subset_append_left _ _

theorem marksAdded_raise (s : State) (f : Fault) : s.MarksAdded (s.raise f) := by
  refine ⟨rfl, ?_, List.Subset.refl _⟩
  rw [raise_faults]
  split
  · exact List.Subset.refl _
  · exact List.subset_append_left _ _

/-! ### A turn without an enabled step -/

/-- Only a register write on the bus stops the machine at its fetch: an agent's turn never does. -/
theorem fetch_agent_ne_stop (a : AgentStep) (s : State) (r : Refusal) : fetch (.agent a) s ≠ .stop r := by
  intro h
  obtain ⟨-, h⟩ := fetch_turn h (by simp)
  cases a <;> simp only [fetchTurn] at h
  case host =>
    unfold fetchHost at h
    split at h
    · split at h <;> cases h
    · cases h
  case producer => unfold fetchProducer at h; split at h <;> cases h
  case drain => unfold fetchDrain at h; split at h <;> cases h
  case txEvent =>
    unfold fetchTxEvent at h
    split at h
    · cases h
    · split at h <;> cases h
  case shift => split at h <;> cases h
  case rxEvent => split at h <;> cases h

theorem enabled_of_fetch_run {s : State} {a : AgentStep} {i : Instr} (h : fetch (.agent a) s = .run i) :
    s.enabled a = true := by
  simp only [State.enabled, h]

/-- The turn passes, and at most a mark is added. -/
theorem step_disabled {s : State} {a : AgentStep} (ht : s.turn = .agent a) (he : s.enabled a = false) :
    ∃ s', step s = .next s' ∧ s.passTurn.MarksAdded s' := by
  unfold step
  rw [ht]
  cases h : fetch (.agent a) s with
  | run i => exact absurd (enabled_of_fetch_run h) (by simp [he])
  | idle => exact ⟨_, rfl, marksAdded_refl _⟩
  | refuse r => exact ⟨_, rfl, marksAdded_refuse _ r⟩
  | raise f => exact ⟨_, rfl, marksAdded_raise _ f⟩
  | stop r => exact absurd h (fetch_agent_ne_stop a s r)

/-- Settles O8: the only turns of an agent that run nothing are those that pass, refuse or raise. -/
theorem disabledTurnChangesNothing : Obligations.DisabledTurnChangesNothing := by
  intro s a ht he
  obtain ⟨s', hs, hm⟩ := step_disabled ht he
  exact ⟨s', hs, by simpa only [State.MarksAdded, passTurn_faults, passTurn_refusals] using hm⟩

/-! ### What each kind of turn fetches -/

theorem fetchHost_ready {s : State} {i : Instr} (hp : s.atPhase .ready = true) (hi : commandAt s.prog s.pcmd = .ok i) :
    fetchHost s = .run i := by
  have hn : s.nextCommand = .ok i := hi
  simp only [fetchHost, hp, if_true, hn]

/-- The byte of a 4-bit phase code decodes as the code does (log 9). -/
theorem decode_ph_setWidth (c : BitVec 4) : decode .ph [c.setWidth 8] = (decodePhase c).map (·, []) := by
  have hlt : (c.setWidth 8).toNat < 16 := by
    rw [BitVec.toNat_setWidth_of_le (by decide)]
    exact c.isLt
  have hc : (c.setWidth 8).setWidth 4 = c := by simp
  rw [decode, if_pos hlt, hc]

theorem fetchProducer_ph {s : State} {i : Instr} (h : decode .ph [s.ph.setWidth 8] = .ok (i, [])) :
    fetchProducer s = .run i := by
  rw [decode_ph_setWidth] at h
  cases hd : decodePhase s.ph with
  | error r => rw [hd] at h; cases h
  | ok j => rw [hd] at h; cases h; simp only [fetchProducer, hd]

theorem fetchDrain_dispatch {s : State} (h : s.dispatchEnabled = true) : fetchDrain s = .run s.drainOutcome.instr :=
  if_pos h

theorem fetchTxEvent_enabled {s : State} {trig : Nat} (ht : s.txTrig = some trig) (h : s.txEventEnabled trig = true) :
    fetchTxEvent s = .run .devTxEvent := by
  simp only [fetchTxEvent, ht, h, if_true]

/-- A 4-byte write inside the UART block is the REGW word at its offset (30_encoding.md R75). -/
theorem fetchBus_offset {s : State} {off : BitVec 12} {v : Word} {i : Instr} (hoff : off.toNat < uartBlockSize)
    (h : decodeWrite off v = .ok i) : fetchBus (s.params.uartBase + off.setWidth 32) 4 v s = .run i := by
  have hlt : ¬ uartBlockSize ≤ (off.setWidth 32).toNat := by
    rw [BitVec.toNat_setWidth_of_le (by decide)]
    omega
  have hw : (off.setWidth 32).setWidth 12 = off := by simp
  simp only [fetchBus, base_add_sub, if_neg hlt, ne_eq, not_true_eq_false, if_false, hw, h]

/-- In an initialised UART a turn that fetches an operation runs it, the schedule having moved on and the trace having
recorded its code. -/
theorem step_of_fetchTurn {s : State} {turn : Turn} {i : Instr} (hu : s.uartInitialised = true) (ht : s.turn = turn)
    (h : fetchTurn turn s = .run i) : step s = exec i (s.passTurn.record i) := by
  simp only [step, ht, fetch_initialised hu, h]

/-- Settles O7, kind of turn by kind of turn. -/
theorem stepRunsTheDecodedOperation : Obligations.StepRunsTheDecodedOperation := by
  intro s
  refine ⟨fun h => ⟨step_uninitialised h, refused_refuse _ _⟩, fun hu => ⟨?_, ?_, ?_, ?_, ?_, ?_, ?_⟩⟩
  · intro ht hp i hi
    exact step_of_fetchTurn hu ht (fetchHost_ready hp hi)
  · intro ht i hi
    exact step_of_fetchTurn hu ht (fetchProducer_ph hi)
  · intro ht hd
    exact step_of_fetchTurn hu ht (fetchDrain_dispatch hd)
  · intro ht trig htrig he
    exact step_of_fetchTurn hu ht (fetchTxEvent_enabled htrig he)
  · intro ht hs
    exact step_of_fetchTurn hu ht (if_pos hs)
  · intro ht hr
    exact step_of_fetchTurn hu ht (if_pos hr)
  · intro off v i ht hoff hi
    exact step_of_fetchTurn hu ht (fetchBus_offset hoff hi)

end Sys2Proof.Machine
end

section
/-! PROOFS. The buffer's invariant (10_state.md R40, R29; 40_enqueue.md R97, R100): every step keeps it. -/

namespace Sys2Proof.Machine

open Sys2Proof.Config

/-! ### A step is one operation's effect, or at most a mark -/

/-- A turn either runs an operation, or changes the schedule and adds marks only. -/
theorem step_marks_or_effect {s s' : State} (h : step s = .next s') :
    (∃ fs rs, s' = { s.passTurn with faults := fs, refusals := rs } ∧ s.faults ⊆ fs ∧ s.refusals ⊆ rs) ∨
    ∃ i, fetch s.turn s = .run i ∧ Effect (s.passTurn.record i) i s' := by
  have marks : ∀ {u : State}, s.passTurn.MarksAdded u →
      ∃ fs rs, u = { s.passTurn with faults := fs, refusals := rs } ∧ s.faults ⊆ fs ∧ s.refusals ⊆ rs := by
    rintro u ⟨hu, hf, hr⟩
    rw [passTurn_faults] at hf
    rw [passTurn_refusals] at hr
    exact ⟨u.faults, u.refusals, by rw [← hu], hf, hr⟩
  rcases step_cases h with rfl | ⟨r, _, rfl⟩ | ⟨_, _, rfl⟩ | run
  · exact .inl (marks (marksAdded_refl _))
  · exact .inl (marks (marksAdded_refuse _ r))
  · exact .inl (marks (marksAdded_raise _ _))
  · exact .inr run

/-! ### The FIFO's depth -/

theorem fifo_bound_writeDR {s : State} (w : Writer) (v : Word) (h : s.txFifo.length ≤ txFifoDepth) :
    (s.writeDR w v).txFifo.length ≤ txFifoDepth := by
  rcases writeDR_cases s w v with ⟨_, he⟩ | ⟨hne, he⟩ <;> rw [he]
  · exact h
  · simp only [List.length_append, List.length_singleton]
    omega

/-! ### The invariant where the Producer is not loading -/

/-- Where the lock is open, the invariant is about the Drain's data only. -/
theorem bufferInv_unlocked {s : State} (hl : s.locked = false) :
    s.BufferInv ↔ s.loading = false ∧ Memory.wf s.bytes = true ∧ s.cursor.toNat < capacity ∧
      s.i.toNat < capacity ∧ s.txFifo.length ≤ txFifoDepth ∧ s.sentinelAhead := by
  constructor
  · intro I
    have hn : s.loading = false := I.lock_span ▸ hl
    refine ⟨hn, I.bytes_wf, I.cursor_bound, I.index_bound, I.fifo_bound, I.sentinel_ahead ?_⟩
    simp only [State.loading, Bool.or_eq_false_iff] at hn
    simp [State.rewriting, hn]
  · rintro ⟨hn, hw, hc, hi, hf, hs⟩
    refine ⟨hw, hl.trans hn.symm, hc, hi, hf, fun _ => hs, ?_, ?_⟩ <;>
      simp only [State.loading, Bool.or_eq_false_iff] at hn <;> simp [hn]

/-- Inside the buffer the next cursor is one higher: `cursor` is wide enough for C. -/
theorem toNat_cursor_succ {c : BitVec cursorWidth} (h : c.toNat < capacity) : (c + 1).toNat = c.toNat + 1 := by
  have hc : c.toNat < 64 := h
  rw [BitVec.toNat_add]
  exact Nat.mod_eq_of_lt (show c.toNat + 1 < 2 ^ 7 by omega)

/-- SEND keeps the invariant: the sentinel ahead is not the byte it sends, so it lies after it. -/
theorem bufferInv_send {s u : State} (hl : s.locked = false) (hb : s.byteAt s.cursor.toNat ≠ sentinel)
    (hbytes : u.bytes = s.bytes) (hcur : u.cursor = s.cursor + 1) (hlock : u.locked = s.locked) (hi : u.i = s.i)
    (hph : u.ph = s.ph) (hf : u.txFifo.length ≤ txFifoDepth) (I : s.BufferInv) : u.BufferInv := by
  obtain ⟨hn, hw, -, hix, -, k, hk, hk64, hks⟩ := (bufferInv_unlocked hl).1 I
  have hlt : s.cursor.toNat < k := Nat.lt_of_le_of_ne hk fun he => hb (he ▸ hks)
  have hc : u.cursor.toNat = s.cursor.toNat + 1 := hcur ▸ toNat_cursor_succ (Nat.lt_trans hlt hk64)
  refine (bufferInv_unlocked (hlock.trans hl)).2 ⟨?_, hbytes ▸ hw, ?_, hi ▸ hix, hf, k, ?_, hk64, ?_⟩
  · simpa only [State.loading, atPhase_congr hph] using hn
  · rw [hc]; exact Nat.lt_of_le_of_lt hlt hk64
  · rw [hc]; exact hlt
  · rw [byteAt_congr hbytes, hks]

/-- RETIRE keeps the invariant: it writes the sentinel where the cursor goes. -/
theorem bufferInv_retire {s u : State} (hl : s.locked = false) (hbytes : u.bytes = Memory.write s.bytes 0 sentinel)
    (hcur : u.cursor = 0) (hlock : u.locked = s.locked) (hi : u.i = s.i) (hph : u.ph = s.ph)
    (hf : u.txFifo = s.txFifo) (I : s.BufferInv) : u.BufferInv := by
  obtain ⟨hn, hw, -, hix, hfb, -⟩ := (bufferInv_unlocked hl).1 I
  have h0 : u.byteAt 0 = sentinel := (byteAt_congr (s := s.setByte 0 sentinel) hbytes 0).trans
    (byteAt_setByte_same s 0 sentinel hw)
  refine (bufferInv_unlocked (hlock.trans hl)).2
    ⟨?_, hbytes ▸ write_keeps_wf (by decide) hw, by rw [hcur]; decide, hi ▸ hix, hf ▸ hfb,
      0, by rw [hcur]; decide, by decide, h0⟩
  simpa only [State.loading, atPhase_congr hph] using hn

/-- A micro-step or a command that leaves the buffer alone keeps the invariant, on a move from a phase outside the rewriting
ones to one at which no copy is under way, with the lock as the new phase wants it. -/
theorem bufferInv_move {s u : State} {p : Phase} (q : Phase) (I : s.BufferInv) (hp : s.atPhase p = true)
    (hq : u.ph = q.code)
    (hpn : p ∉ [Phase.guard, .copy, .term, .cursor]) (hqn : q ∉ [Phase.copy, .term, .cursor])
    (hlock : u.locked = decide (q ∈ [Phase.guard, .copy, .term, .cursor, .unlock]))
    (hbytes : u.bytes = s.bytes) (hcur : u.cursor = s.cursor) (hi : u.i = s.i)
    (hf : u.txFifo.length ≤ txFifoDepth) : u.BufferInv := by
  obtain ⟨hw, -, hc, hix, -, hs, -⟩ := (bufferInv_at ((atPhase_iff _ _).1 hp)).1 I
  obtain ⟨k, hk, hk64, hks⟩ := hs hpn
  refine (bufferInv_at hq).2 ⟨hbytes ▸ hw, hlock, hcur ▸ hc, hi ▸ hix, hf, fun _ => ⟨k, hcur ▸ hk, hk64, ?_⟩,
    fun h => absurd h hqn, fun h => absurd (by simp [h]) hqn⟩
  rw [byteAt_congr hbytes, hks]

/-- At a named phase outside the load the lock is open. -/
theorem unlocked_at {s : State} {p : Phase} (I : s.BufferInv) (hp : s.atPhase p = true)
    (hn : p ∉ [Phase.guard, .copy, .term, .cursor, .unlock]) : s.locked = false := by
  obtain ⟨-, hl, -⟩ := (bufferInv_at ((atPhase_iff _ _).1 hp)).1 I
  simpa only [hl, decide_eq_false_iff_not] using hn

/-- The moves outside the lock's span leave the lock as it is, open. -/
theorem bufferInv_unlockedMove {s u : State} {p : Phase} (q : Phase) (I : s.BufferInv) (hp : s.atPhase p = true)
    (hq : u.ph = q.code) (hpn : p ∉ [Phase.guard, .copy, .term, .cursor, .unlock])
    (hqn : q ∉ [Phase.guard, .copy, .term, .cursor, .unlock]) (hlock : u.locked = s.locked)
    (hbytes : u.bytes = s.bytes) (hcur : u.cursor = s.cursor) (hi : u.i = s.i)
    (hf : u.txFifo.length ≤ txFifoDepth) : u.BufferInv := by
  refine bufferInv_move q I hp hq (fun h => hpn (List.mem_append_left [Phase.unlock] h))
    (fun h => hqn (List.mem_cons_of_mem _ (List.mem_append_left [Phase.unlock] h))) ?_ hbytes hcur hi hf
  rw [hlock, unlocked_at I hp hpn, decide_eq_false hqn]

/-! ### The load (40_enqueue.md R88 to R91) -/

section Load

variable {s : State}

/-- E3: `bytes[1]` holds the sentinel before the copy begins. -/
theorem bufferInv_guard (h : s.atPhase .guard = true) (I : s.BufferInv) :
    { (s.setByte 1 sentinel).setPh .copy with i := 0 }.BufferInv := by
  obtain ⟨hw, hl, hc, -, hf, -⟩ := (bufferInv_at ((atPhase_iff _ _).1 h)).1 I
  refine (bufferInv_at (p := .copy) rfl).2
    ⟨write_keeps_wf (by decide) hw, hl, hc, Nat.zero_lt_succ _, hf, by simp, fun _ _ => ?_, by simp⟩
  exact byteAt_setByte_same s 1 sentinel hw

/-- E4a, copying: the index stays inside the buffer and is 0 no more. -/
theorem bufferInv_copyByte (h : s.atPhase .copy = true) (hcc : s.copyContinues = true) (I : s.BufferInv) :
    { (s.setByte s.i.toNat (s.msg.getD s.i.toNat 0)).setPh .copy with i := s.i + 1 }.BufferInv := by
  obtain ⟨hw, hl, hc, hi, hf, -⟩ := (bufferInv_at ((atPhase_iff _ _).1 h)).1 I
  obtain ⟨hi63, hi1, -⟩ := copy_bound hcc
  refine (bufferInv_at (p := .copy) rfl).2
    ⟨write_keeps_wf hi hw, hl, hc, ?_, hf, by simp, fun _ h0 => ?_, by simp⟩
  · show (s.i + 1).toNat < 64
    omega
  · have : (s.i + 1).toNat = 0 := congrArg BitVec.toNat h0
    omega

/-- E4a, leaving the loop. -/
theorem bufferInv_copyEnds (h : s.atPhase .copy = true) (I : s.BufferInv) : (s.setPh .term).BufferInv := by
  obtain ⟨hw, hl, hc, hi, hf, -, hg, -⟩ := (bufferInv_at ((atPhase_iff _ _).1 h)).1 I
  exact (bufferInv_at (p := .term) rfl).2 ⟨hw, hl, hc, hi, hf, by simp, fun _ => hg (by decide), by simp⟩

/-- E4b: the sentinel stands at the index, and E3's where the message is empty. -/
theorem bufferInv_term (h : s.atPhase .term = true) (hi : s.i.toNat < capacity) (I : s.BufferInv) :
    ((s.setByte s.i.toNat sentinel).setPh .cursor).BufferInv := by
  obtain ⟨hw, hl, hc, -, hf, -, hg, -⟩ := (bufferInv_at ((atPhase_iff _ _).1 h)).1 I
  refine (bufferInv_at (p := .cursor) rfl).2
    ⟨write_keeps_wf hi hw, hl, hc, hi, hf, by simp, fun _ h0 => ?_, fun _ => byteAt_setByte_same s _ sentinel hw⟩
  have h1 : s.byteAt 1 = sentinel := hg (by decide) h0
  rw [byteAt_setPh, byteAt_setByte _ _ _ _ hw, h1, ite_self]

/-- E5: behind the new cursor 1 the sentinel is E4b's, or E3's where the message is empty. -/
theorem bufferInv_cursor (h : s.atPhase .cursor = true) (I : s.BufferInv) :
    { s.setPh .unlock with cursor := 1 }.BufferInv := by
  obtain ⟨hw, hl, -, hi, hf, -, hg, ht⟩ := (bufferInv_at ((atPhase_iff _ _).1 h)).1 I
  refine (bufferInv_at (p := .unlock) rfl).2 ⟨hw, hl, show 1 < 64 by decide, hi, hf, fun _ => ?_, by simp, by simp⟩
  by_cases h0 : s.i = 0
  · exact ⟨1, Nat.le_refl 1, by decide, hg (by decide) h0⟩
  · have hpos : 1 ≤ s.i.toNat := Nat.one_le_iff_ne_zero.2 fun he => h0 (BitVec.eq_of_toNat_eq he)
    exact ⟨s.i.toNat, hpos, hi, ht rfl⟩

end Load

/-! ### Every step -/

/-- Every operation keeps the invariant: the load's micro-steps one by one, SEND and RETIRE by the Drain's data, the other
micro-steps and the commands as moves of the phase; the rest touches none of the fields it reads. -/
theorem effect_keeps_bufferInv {s s' : State} {i : Instr} (e : Effect s i s') (I : s.BufferInv) : s'.BufferInv := by
  have fifo := I.fifo_bound
  cases e with
  | waits => exact I
  | initAsync h =>
    obtain ⟨h, -⟩ := Bool.and_eq_true_iff.1 h
    exact bufferInv_unlockedMove .initIfls I h rfl (by decide) (by decide) rfl rfl rfl rfl fifo
  | enqueue m h =>
    obtain ⟨h, -⟩ := Bool.and_eq_true_iff.1 h
    exact bufferInv_unlockedMove .wait I h rfl (by decide) (by decide) rfl rfl rfl rfl fifo
  | enqueueLine m h =>
    obtain ⟨h, -⟩ := Bool.and_eq_true_iff.1 h
    exact bufferInv_unlockedMove .wait I h rfl (by decide) (by decide) rfl rfl rfl rfl fifo
  | idleTestPasses h =>
    exact bufferInv_unlockedMove .lock I h rfl (by decide) (by decide) rfl rfl rfl rfl fifo
  | idleTestFails h =>
    exact bufferInv_unlockedMove .wait I h rfl (by decide) (by decide) rfl rfl rfl rfl fifo
  | lock h => exact bufferInv_move .guard I h rfl (by decide) (by decide) rfl rfl rfl rfl fifo
  | guard h => exact bufferInv_guard h I
  | copyByte h hc => exact bufferInv_copyByte h hc I
  | copyEnds h => exact bufferInv_copyEnds h I
  | term h hi => exact bufferInv_term h hi I
  | cursor h => exact bufferInv_cursor h I
  | unlock h => exact bufferInv_move .kickRead I h rfl (by decide) (by decide) rfl rfl rfl rfl fifo
  | kickRead h =>
    exact bufferInv_unlockedMove .kickWrite I h rfl (by decide) (by decide) rfl rfl rfl rfl fifo
  | kickReturns h =>
    exact bufferInv_unlockedMove .ready I h rfl (by decide) (by decide) (by simp) (by simp) (by simp)
      (by simp) (fifo_bound_writeDR _ _ fifo)
  | kickSecondHalf h =>
    exact bufferInv_unlockedMove .wait I h rfl (by decide) (by decide) (by simp) (by simp) (by simp)
      (by simp) (fifo_bound_writeDR _ _ fifo)
  | initIfls h =>
    exact bufferInv_unlockedMove .initImsc I h rfl (by decide) (by decide) rfl rfl rfl rfl fifo
  | initImsc h =>
    exact bufferInv_unlockedMove .initLine I h rfl (by decide) (by decide) rfl rfl rfl rfl fifo
  | initLine h =>
    exact bufferInv_unlockedMove .ready I h rfl (by decide) (by decide) rfl rfl rfl rfl fifo
  | skip => exact bufferInv_congr (s := s) rfl rfl rfl rfl rfl fifo I
  | send hl _ hb =>
    exact bufferInv_send hl hb (by simp) rfl (by simp) (by simp) (by simp)
      (fifo_bound_writeDR (s := s.writeICR txCause) _ _ fifo) I
  | retire hl => exact bufferInv_retire hl rfl rfl rfl rfl rfl rfl I
  | noTrigger => exact bufferInv_congr (s := s) rfl rfl rfl rfl rfl fifo I
  | txEvent => exact bufferInv_congr (s := s) rfl rfl rfl rfl rfl fifo I
  | shift =>
    refine bufferInv_congr (s := s) rfl rfl rfl rfl rfl (Nat.le_trans ?_ fifo) I
    exact (List.drop_sublist 1 s.txFifo).length_le
  | rxEvent => exact bufferInv_congr (s := s) rfl rfl rfl rfl rfl fifo I
  | drWrite v =>
    exact bufferInv_congr (by simp) (by simp) (by simp) (by simp) (by simp) (fifo_bound_writeDR .bus v fifo) I
  | iflsWrite v =>
    exact bufferInv_congr (by simp) (by simp) (by simp) (by simp) (by simp) (by simpa using fifo) I
  | imscWrite => exact bufferInv_congr (s := s) rfl rfl rfl rfl rfl fifo I
  | icrTx => exact bufferInv_congr (s := s) rfl rfl rfl rfl rfl fifo I

/-- Settles O52: a turn that runs nothing touches none of the invariant's fields, and every operation keeps it. -/
theorem stepKeepsBufferInvariant : Obligations.StepKeepsBufferInvariant := by
  intro s s' I h
  rcases step_marks_or_effect h with ⟨fs, rs, rfl, -⟩ | ⟨i, -, e⟩
  · exact bufferInv_congr (by simp) (by simp) (by simp) (by simp) (by simp) (by simpa using I.fifo_bound) I
  · refine effect_keeps_bufferInv e ?_
    exact bufferInv_congr (by simp) (by simp) (by simp) (by simp) (by simp) (by simpa using I.fifo_bound) I

end Sys2Proof.Machine
end

section
/-! PROOFS. What no step writes and what no step clears (10_state.md R28, R32, R33, R37, R43), and which fields the agents
other than the Producer leave alone (20_memory.md R47). -/

namespace Sys2Proof.Machine

open Sys2Proof.Config

/-! ### The launch state -/

/-- `s'` has the launch parameters, the program and the registers that the core never writes of `s`, and keeps the line
enabled. -/
def State.LaunchKept (s s' : State) : Prop :=
  s'.params = s.params ∧ s'.prog = s.prog ∧ s'.cpuIrqEn = s.cpuIrqEn ∧ s'.uartCR = s.uartCR ∧
  s'.uartLCRH = s.uartLCRH ∧ s'.uartIBRD = s.uartIBRD ∧ s'.uartFBRD = s.uartFBRD ∧ s'.uartFRIn = s.uartFRIn ∧
  (s.lineEn = true → s'.lineEn = true)

/-- No operation writes them: I3 alone writes `lineEn`, and sets it. -/
theorem effect_launchKept {s s' : State} {i : Instr} (e : Effect s i s') : s.LaunchKept s' := by
  cases e <;> simp [State.LaunchKept, enableLine]

/-- Settles O10: neither the schedule, nor a mark, nor an operation writes the launch state. -/
theorem launchStateNeverChanges : Obligations.LaunchStateNeverChanges := by
  intro s s' h
  rcases step_marks_or_effect h with ⟨fs, rs, rfl, -⟩ | ⟨i, -, e⟩
  · simp
  · simpa [State.LaunchKept] using effect_launchKept e

/-! ### Marks -/

theorem faults_subset_writeDR (s : State) (w : Writer) (v : Word) : s.faults ⊆ (s.writeDR w v).faults := by
  rcases writeDR_cases s w v with ⟨-, he⟩ | ⟨-, he⟩ <;> rw [he]
  · exact (marksAdded_raise s _).2.1
  · exact List.Subset.refl _

theorem refusals_subset_writeIFLS (s : State) (v : Word) : s.refusals ⊆ (s.writeIFLS v).refusals := by
  unfold State.writeIFLS
  split
  · exact List.Subset.refl _
  · exact (marksAdded_refuse s _).2.2

/-- An operation adds a fault by a UARTDR write only, and a refusal by a UARTIFLS write or a TX event only. -/
theorem effect_keeps_marks {s s' : State} {i : Instr} (e : Effect s i s') :
    s.faults ⊆ s'.faults ∧ s.refusals ⊆ s'.refusals := by
  cases e
  case kickReturns => exact ⟨faults_subset_writeDR s _ _, by simp⟩
  case kickSecondHalf => exact ⟨faults_subset_writeDR s _ _, by simp⟩
  case send => exact ⟨faults_subset_writeDR (s.writeICR txCause) _ _, by simp⟩
  case drWrite => exact ⟨faults_subset_writeDR s _ _, by simp⟩
  case initIfls => exact ⟨by simp, refusals_subset_writeIFLS s _⟩
  case iflsWrite => exact ⟨by simp, refusals_subset_writeIFLS s _⟩
  case noTrigger => exact (marksAdded_refuse s _).2
  all_goals exact ⟨List.Subset.refl _, List.Subset.refl _⟩

theorem unmarked_iff (s : State) : s.unmarked = true ↔ s.faults = [] ∧ s.refusals = [] := by
  simp [State.unmarked, State.refused]

theorem unmarked_of_subset {s s' : State} (hf : s.faults ⊆ s'.faults) (hr : s.refusals ⊆ s'.refusals)
    (h : s'.unmarked = true) : s.unmarked = true := by
  obtain ⟨hf', hr'⟩ := (unmarked_iff s').1 h
  exact (unmarked_iff s).2 ⟨List.subset_nil.1 (hf' ▸ hf), List.subset_nil.1 (hr' ▸ hr)⟩

/-- Settles O11: a mark is added to the list that stands, whoever records it. -/
theorem marksAreSticky : Obligations.MarksAreSticky := by
  intro s s' h
  have kept : s.faults ⊆ s'.faults ∧ s.refusals ⊆ s'.refusals := by
    rcases step_marks_or_effect h with ⟨fs, rs, rfl, hf, hr⟩ | ⟨i, -, e⟩
    · exact ⟨hf, hr⟩
    · simpa using effect_keeps_marks e
  obtain ⟨hf, hr⟩ := kept
  exact ⟨hf, hr, fun hs => Bool.eq_false_iff.2 fun h' => by simp [unmarked_of_subset hf hr h'] at hs⟩

/-! ### The buffer and the Producer's registers -/

/-- Register writes, device events and receive traffic write neither the buffer nor the Producer's registers. -/
theorem effect_device_frame {s s' : State} {i : Instr} (e : Effect s i s')
    (h : i.format = .regw ∨ i = .devTxEvent ∨ i = .devShift ∨ i = .hostRxEvent) :
    s'.bytes = s.bytes ∧ s'.cursor = s.cursor ∧ s'.locked = s.locked ∧ s'.msg = s.msg ∧ s'.i = s.i ∧ s'.t = s.t ∧
      s'.tail = s.tail ∧ s'.ph = s.ph ∧ s'.pcmd = s.pcmd := by
  rcases h with h | rfl | rfl | rfl
  · cases e <;> simp [Instr.format] at h ⊢
  all_goals cases e <;> simp

/-- A command writes the Producer's own registers only (40_enqueue.md R82, R83; 42_init_async.md R115). -/
theorem effect_command_frame {s s' : State} {i : Instr} (e : Effect s i s') (h : i.format = .cmd) :
    { s' with msg := s.msg, tail := s.tail, ph := s.ph, pcmd := s.pcmd } = s := by
  cases e
  case waits => rfl
  case initAsync => rfl
  case enqueue => rfl
  case enqueueLine => rfl
  all_goals cases h

/-- Settles O44, operation by operation. -/
theorem otherAgentsLeaveTheBufferAlone : Obligations.OtherAgentsLeaveTheBufferAlone := by
  intro i s s' h
  exact ⟨effect_device_frame (exec_effect h), effect_command_frame (exec_effect h)⟩

/-! ### What stops the machine (logs 8, 15, 21 and 22) -/

/-- Why an offset is no register write of 30_encoding.md R75. -/
theorem decodeWrite_error {off : BitVec 12} {v : Word} {e : Reject} (h : decodeWrite off v = .error e) :
    e = .misalignedAccess ∨ (off.toNat % 4 = 0 ∧ off.toNat ∉ [0x000, 0x034, 0x038, 0x044]) := by
  have ne : ∀ {c : BitVec 12}, off ≠ c → off.toNat ≠ c.toNat := fun hc he => hc (BitVec.eq_of_toNat_eq he)
  unfold decodeWrite at h
  split at h
  · cases h; exact .inl rfl
  · next ha =>
    split at h
    · cases h
    next h0 =>
    split at h
    · cases h
    next h1 =>
    split at h
    · cases h
    next h2 =>
    split at h
    · cases h
    next h3 =>
    exact .inr ⟨not_not.1 ha, by simpa using ⟨ne h0, ne h1, ne h2, ne h3⟩⟩

/-- Inside the UART block an offset keeps its value in the 12 bits of a register offset. -/
theorem toNat_offset {off : Word} (h : ¬ uartBlockSize ≤ off.toNat) : (off.setWidth 12).toNat = off.toNat := by
  rw [BitVec.toNat_setWidth]
  exact Nat.mod_eq_of_lt (Nat.lt_trans (Nat.lt_of_not_le h) (by decide))

/-- A turn that stops is a bus write outside the UART block, or one of a register without a write effect. -/
theorem fetch_stop {turn : Turn} {s : State} {r : Refusal} (h : fetch turn s = .stop r) :
    ∃ addr n v, turn = .bus addr n v ∧
      ((0x48 ≤ (addr - s.params.uartBase).toNat ∧ r = .outsideUart addr) ∨
        ((addr - s.params.uartBase).toNat < 0x48 ∧ n = 4 ∧ (addr - s.params.uartBase).toNat % 4 = 0 ∧
          (addr - s.params.uartBase).toNat ∉ [0x000, 0x034, 0x038, 0x044] ∧
          r = .noWriteEffect (addr - s.params.uartBase))) := by
  cases turn with
  | agent a => exact absurd h (fetch_agent_ne_stop a s r)
  | secondProducer => cases (fetch_turn h (by simp)).2
  | bus addr n v =>
    refine ⟨addr, n, v, rfl, ?_⟩
    replace h : fetchBus addr n v s = .stop r := (fetch_turn h (by simp)).2
    simp only [fetchBus] at h
    split at h
    · next hout => cases h; exact .inl ⟨hout, rfl⟩
    next hin =>
    split at h
    · cases h
    next hn =>
    split at h
    · cases h
    · cases h
    · next e he hd =>
      cases h
      rcases decodeWrite_error hd with rfl | ⟨ha, hk⟩
      · exact absurd rfl he
      · rw [toNat_offset hin] at ha hk
        exact .inr ⟨Nat.lt_of_not_le hin, not_not.1 hn, ha, hk, rfl⟩

/-- Settles O43: a fetched operation stops at E4b outside the buffer only, and a fetch at a bus write only. -/
theorem whatStopsTheMachine : Obligations.WhatStopsTheMachine := by
  intro s
  cases hf : fetch s.turn s with
  | idle => exact .inl ⟨_, by simp only [step, hf]; rfl⟩
  | refuse r => exact .inl ⟨_, by simp only [step, hf]; rfl⟩
  | raise f => exact .inl ⟨_, by simp only [step, hf]; rfl⟩
  | stop r =>
    have hs : step s = .refused r := by simp only [step, hf]
    obtain ⟨addr, n, v, ht, h⟩ := fetch_stop hf
    refine .inr (.inl ⟨addr, n, v, ht, ?_⟩)
    rcases h with ⟨hout, rfl⟩ | ⟨hin, hn, ha, hk, rfl⟩
    · exact .inl ⟨hout, hs⟩
    · exact .inr ⟨hin, hn, ha, hk, hs⟩
  | run i =>
    have hs : step s = exec i (s.passTurn.record i) := by simp only [step, hf]
    by_cases hex : ∃ s', exec i (s.passTurn.record i) = .next s'
    · exact .inl (hs ▸ hex)
    · obtain ⟨rfl, hp, hi⟩ := exec_stops fun s' h' => hex ⟨s', h'⟩
      obtain ⟨ht, hph⟩ := producer_turn (p := .term) hf rfl
      have hfault : step s = .fault (.bufferOffset (s.passTurn.record .e4bTerm).i.toNat) :=
        hs.trans (execE4bTerm_outside _ hp hi)
      rw [record_i, passTurn_i] at hfault hi
      exact .inr (.inr ⟨ht, hph, Nat.le_of_not_lt hi, hfault⟩)

end Sys2Proof.Machine
end

section
/-! PROOFS. Who writes the shared state (41_drain.md R106, R111; 40_enqueue.md R97, R100): for each of `cursor`, the buffer's
cells and `locked`, the operations that change it, and from them the turns. -/

namespace Sys2Proof.Machine

open Sys2Proof.Config

/-! ### `cursor` -/

/-- E5, SEND and RETIRE are the only operations that write `cursor`. -/
theorem effect_changes_cursor {s s' : State} {i : Instr} (e : Effect s i s') (hne : s'.cursor ≠ s.cursor) :
    (i = .e5Cursor ∧ s'.cursor = 1) ∨
    (i = .drainSend ∧ s.locked = false ∧ s.cursor.toNat < capacity ∧ s.byteAt s.cursor.toNat ≠ sentinel ∧
      s'.cursor = s.cursor + 1) ∨
    (i = .drainRetire ∧ s.locked = false ∧ (s.cursor.toNat < capacity → s.byteAt s.cursor.toNat = sentinel) ∧
      s'.cursor = 0) := by
  cases e
  case cursor => exact .inl ⟨rfl, rfl⟩
  case send hl hc hb => exact .inr (.inl ⟨rfl, hl, hc, hb, rfl⟩)
  case retire hl hc => exact .inr (.inr ⟨rfl, hl, hc, rfl⟩)
  all_goals exact absurd (by simp [enableLine]) hne

/-- Settles O48: the three writers of `cursor`, at the turns that run them. -/
theorem cursorAdvancement : Obligations.CursorAdvancement := by
  intro s s' h hne
  rcases step_marks_or_effect h with ⟨fs, rs, rfl, -⟩ | ⟨i, hf, e⟩
  · exact absurd (passTurn_cursor s) hne
  · have writers := effect_changes_cursor e (by simpa using hne)
    simp only [record_cursor, passTurn_cursor, record_locked, passTurn_locked, byteAt_record, byteAt_passTurn] at writers
    rcases writers with ⟨rfl, hc⟩ | ⟨rfl, hl, hlt, hb, hc⟩ | ⟨rfl, hl, hb, hc⟩
    · obtain ⟨ht, hp⟩ := producer_turn (p := .cursor) hf rfl
      exact .inl ⟨ht, hp, hc⟩
    · exact .inr (.inl ⟨(drain_turn hf (by simp)).1, hl, hlt, hb, hc ▸ toNat_cursor_succ hlt⟩)
    · refine .inr (.inr ⟨(drain_turn hf (by simp)).1, hl, ?_, hc⟩)
      exact (Nat.lt_or_ge s.cursor.toNat capacity).elim (fun hlt => .inr (hb hlt)) .inl

/-! ### The buffer's cells -/

/-- A write changes its own cell only, to the byte written. -/
theorem setByte_changes {s : State} {a k : Nat} {v : Byte} (hw : Memory.wf s.bytes = true)
    (hne : (s.setByte a v).byteAt k ≠ s.byteAt k) : k = a ∧ (s.setByte a v).byteAt k = v := by
  have hk : k = a := by_contra fun hk => hne (byteAt_setByte_other s a k v hw hk)
  exact ⟨hk, hk ▸ byteAt_setByte_same s k v hw⟩

/-- E3, a copying E4a, E4b and RETIRE are the only operations that write a cell. -/
theorem effect_changes_byteAt {s s' : State} {i : Instr} {k : Nat} (hw : Memory.wf s.bytes = true) (e : Effect s i s')
    (hne : s'.byteAt k ≠ s.byteAt k) :
    (i = .e3Guard ∧ k = 1 ∧ s'.byteAt k = sentinel) ∨
    (i = .e4aCopy ∧ k = s.i.toNat ∧ k < 63 ∧ s.msg[k]? = some (s'.byteAt k)) ∨
    (i = .e4bTerm ∧ k = s.i.toNat ∧ k < capacity ∧ s'.byteAt k = sentinel) ∨
    (i = .drainRetire ∧ s.locked = false ∧ k = 0 ∧ s'.byteAt k = sentinel) := by
  cases e
  case guard =>
    obtain ⟨hk, hb⟩ := setByte_changes (a := 1) (v := sentinel) hw hne
    exact .inl ⟨rfl, hk, hb⟩
  case copyByte hc =>
    obtain ⟨hk, hb⟩ := setByte_changes (a := s.i.toNat) (v := s.msg.getD s.i.toNat 0) hw hne
    obtain ⟨hi, -, hm⟩ := copy_bound hc
    refine .inr (.inl ⟨rfl, hk, hk ▸ hi, (List.getElem?_eq_getElem (hk ▸ hm)).trans (congrArg some ?_)⟩)
    refine Eq.trans ?_ hb.symm
    subst hk
    exact (List.getD_eq_getElem _ 0 hm).symm
  case term hi =>
    obtain ⟨hk, hb⟩ := setByte_changes (a := s.i.toNat) (v := sentinel) hw hne
    exact .inr (.inr (.inl ⟨rfl, hk, hk ▸ hi, hb⟩))
  case retire hl _ =>
    obtain ⟨hk, hb⟩ := setByte_changes (s := s.writeICR txCause) (a := 0) (v := sentinel) hw hne
    exact .inr (.inr (.inr ⟨rfl, hl, hk, hb⟩))
  all_goals exact absurd (byteAt_congr (by simp [enableLine]) k) hne

/-- Settles O49: the four writers of a cell, at the turns that run them. -/
theorem offsetsWritten : Obligations.OffsetsWritten := by
  intro s s' k hw h hne
  rcases step_marks_or_effect h with ⟨fs, rs, rfl, -⟩ | ⟨i, hf, e⟩
  · exact absurd (byteAt_passTurn s k) hne
  · have writers := effect_changes_byteAt (k := k) (by simpa using hw) e (by simpa using hne)
    simp only [record_i, passTurn_i, record_msg, passTurn_msg, record_locked, passTurn_locked] at writers
    rcases writers with ⟨rfl, hk, hb⟩ | ⟨rfl, hk, hlt, hb⟩ | ⟨rfl, hk, hlt, hb⟩ | ⟨rfl, hl, hk, hb⟩
    · obtain ⟨ht, hp⟩ := producer_turn (p := .guard) hf rfl
      exact ⟨hk ▸ by decide, .inl ⟨ht, .inl ⟨hp, hk, hb⟩⟩⟩
    · obtain ⟨ht, hp⟩ := producer_turn (p := .copy) hf rfl
      exact ⟨Nat.lt_succ_of_lt hlt, .inl ⟨ht, .inr (.inl ⟨hp, hk, hlt, hb⟩)⟩⟩
    · obtain ⟨ht, hp⟩ := producer_turn (p := .term) hf rfl
      exact ⟨hlt, .inl ⟨ht, .inr (.inr ⟨hp, hk, hb⟩)⟩⟩
    · exact ⟨hk ▸ by decide, .inr ⟨(drain_turn hf (by simp)).1, hl, hk, hb⟩⟩

/-! ### `locked` -/

/-- E2 and E6 are the only operations that write `locked`. -/
theorem effect_changes_locked {s s' : State} {i : Instr} (e : Effect s i s') (hne : s'.locked ≠ s.locked) :
    (i = .e2Lock ∧ s'.locked = true) ∨ (i = .e6Unlock ∧ s'.locked = false) := by
  cases e
  case lock => exact .inl ⟨rfl, rfl⟩
  case unlock => exact .inr ⟨rfl, rfl⟩
  all_goals exact absurd (by simp [enableLine]) hne

/-- While the lock is held, an operation that is no micro-step writes neither the buffer nor `cursor`: SEND and RETIRE need
the lock open. -/
theorem effect_locked_frame {s s' : State} {i : Instr} (e : Effect s i s') (hl : s.locked = true) (hi : i.phase = none) :
    s'.bytes = s.bytes ∧ s'.cursor = s.cursor := by
  cases e
  case send h _ _ => exact absurd hl (by simp [h])
  case retire h _ => exact absurd hl (by simp [h])
  all_goals simp [Instr.phase] at hi ⊢

/-- Only the Producer's turn runs a micro-step. -/
theorem phase_none_of_turn {s : State} {i : Instr} (hf : fetch s.turn s = .run i) (ht : s.turn ≠ .agent .producer) :
    i.phase = none := by
  cases hp : i.phase with
  | none => rfl
  | some p => exact absurd (producer_turn hf hp).1 ht

/-- Settles O50: E2 and E6 are the Producer's, and the Drain's two writers of the buffer need the lock open. -/
theorem lockKeepsTheDrainOut : Obligations.LockKeepsTheDrainOut := by
  intro s s' h
  rcases step_marks_or_effect h with ⟨fs, rs, rfl, -⟩ | ⟨i, hf, e⟩
  · exact ⟨fun hne => absurd (passTurn_locked s) hne, fun _ _ => ⟨passTurn_bytes s, passTurn_cursor s⟩⟩
  · constructor
    · intro hne
      rcases effect_changes_locked e (by simpa using hne) with ⟨rfl, hl⟩ | ⟨rfl, hl⟩
      · obtain ⟨ht, hp⟩ := producer_turn (p := .lock) hf rfl
        exact ⟨ht, .inl ⟨hp, hl⟩⟩
      · obtain ⟨ht, hp⟩ := producer_turn (p := .unlock) hf rfl
        exact ⟨ht, .inr ⟨hp, hl⟩⟩
    · intro hl ht
      simpa using effect_locked_frame e (by simpa using hl) (phase_none_of_turn hf ht)

end Sys2Proof.Machine
end

section
/-! PROOFS. The order on the wire (10_state.md R30, R58; 43_uart_boundary.md R123, R130, R131). -/

namespace Sys2Proof.Machine

open Sys2Proof.Config

/-- From `s` to `s'` the wire grows by a byte shifted out of the FIFO, or the FIFO by a byte `b` that `Written b` allows, or
neither grows. -/
def State.WireGrows (Written : Byte → Prop) (s s' : State) : Prop :=
  ∃ shifted written, s'.wire = s.wire ++ shifted ∧ s'.wire ++ s'.txFifo = s.wire ++ s.txFifo ++ written ∧
    ((written = [] ∧ s'.owed ≤ s.owed) ∨ (shifted = [] ∧ s'.owed = s.owed + 1 ∧ ∃ b, written = [b] ∧ Written b))

theorem wireGrows_same {Written : Byte → Prop} {s s' : State} (hw : s'.wire = s.wire) (hf : s'.txFifo = s.txFifo)
    (ho : s'.owed ≤ s.owed) : s.WireGrows Written s' :=
  ⟨[], [], by simp [hw], by simp [hw, hf], .inl ⟨rfl, ho⟩⟩

/-- A UARTDR write queues its low byte, or finds the FIFO full. -/
theorem wireGrows_writeDR {Written : Byte → Prop} (s : State) (w : Writer) (v : Word)
    (h : Written (v.extractLsb' 0 8)) : s.WireGrows Written (s.writeDR w v) := by
  rcases writeDR_cases s w v with ⟨-, he⟩ | ⟨-, he⟩ <;> rw [he]
  · exact wireGrows_same rfl rfl (Nat.le_refl _)
  · exact ⟨[], [v.extractLsb' 0 8], (List.append_nil _).symm, (List.append_assoc _ _ _).symm, .inr ⟨rfl, rfl, _, rfl, h⟩⟩

/-- SHIFT moves the FIFO's head to the wire's end. -/
theorem wireGrows_shift {Written : Byte → Prop} (s : State) :
    s.WireGrows Written { s with wire := s.wire ++ s.txFifo.take 1, txFifo := s.txFifo.drop 1 } :=
  ⟨s.txFifo.take 1, [], rfl, by rw [List.append_assoc, List.take_append_drop, List.append_nil], .inl ⟨rfl, Nat.le_refl _⟩⟩

/-- The bytes that an operation may write to UARTDR: E7b's latch, SEND's byte, a DR_WRITE's low byte. -/
def State.MayWrite (s : State) (i : Instr) (b : Byte) : Prop :=
  (i = .e7bKickWrite ∧ b = s.t) ∨
  (i = .drainSend ∧ s.locked = false ∧ s.cursor.toNat < capacity ∧ s.byteAt s.cursor.toNat ≠ sentinel ∧
    b = s.byteAt s.cursor.toNat) ∨
  ∃ v, i = .drWrite v ∧ b = v.setWidth 8

theorem effect_wireGrows {s s' : State} {i : Instr} (e : Effect s i s') : s.WireGrows (s.MayWrite i) s' := by
  cases e
  case kickReturns => exact wireGrows_writeDR s .producer _ (.inl ⟨rfl, extract_drValue _⟩)
  case kickSecondHalf => exact wireGrows_writeDR s .producer _ (.inl ⟨rfl, extract_drValue _⟩)
  case send hl hc hb =>
    exact wireGrows_writeDR (s.writeICR txCause) .drain _ (.inr (.inl ⟨rfl, hl, hc, hb, extract_drValue _⟩))
  case drWrite v =>
    exact wireGrows_writeDR s .bus v (.inr (.inr ⟨v, rfl, BitVec.setWidth_eq_extractLsb' (by decide) |>.symm⟩))
  case shift => exact wireGrows_shift s
  all_goals exact wireGrows_same (by simp [enableLine]) (by simp [enableLine]) (by simp [enableLine])

theorem decodeWrite_drWrite {off : BitVec 12} {v w : Word} (h : decodeWrite off w = .ok (.drWrite v)) :
    off = 0x000#12 ∧ w = v := by
  unfold decodeWrite at h
  split at h
  · cases h
  · split at h
    · next h0 => cases h; exact ⟨h0, rfl⟩
    · repeat' split at h
      all_goals cases h

theorem fetchBus_drWrite {s : State} {addr : Word} {n : Nat} {v w : Word}
    (h : fetchBus addr n w s = .run (.drWrite v)) : addr = s.params.uartBase ∧ n = 4 ∧ w = v := by
  simp only [fetchBus] at h
  split at h
  · cases h
  next hin =>
  split at h
  · cases h
  next hn =>
  split at h
  · next j hj =>
    cases h
    obtain ⟨h0, hv⟩ := decodeWrite_drWrite hj
    have hoff : addr - s.params.uartBase = 0#32 := BitVec.eq_of_toNat_eq (by rw [← toNat_offset hin, h0]; rfl)
    exact ⟨by rw [← BitVec.sub_add_cancel addr s.params.uartBase, hoff, BitVec.zero_add], not_not.1 hn, hv⟩
  · cases h
  · cases h

/-- A DR_WRITE is run at one turn only: a 4-byte bus write at the UART's base. -/
theorem drWrite_turn {s : State} {v : Word} (h : fetch s.turn s = .run (.drWrite v)) :
    s.turn = .bus s.params.uartBase 4 v := by
  have hna : s.turn.isAgent = false := by
    rcases fetch_run h with ⟨-, -, hc⟩ | ⟨-, p, hp, -⟩ | ⟨-, -, hd⟩ | ⟨-, hd, -⟩ | ⟨-, hd, -⟩ | ⟨-, hd, -⟩ | ⟨hna, -⟩
    · cases commandAt_format hc
    · cases hp
    · cases ho : s.drainOutcome <;> rw [ho] at hd <;> cases hd
    · cases hd
    · cases hd
    · cases hd
    · exact hna
  cases ht : s.turn with
  | agent a => rw [ht] at hna; cases hna
  | secondProducer => rw [ht] at h; cases (fetch_turn h (by simp)).2
  | bus addr n w =>
    rw [ht] at h
    obtain ⟨rfl, rfl, rfl⟩ := fetchBus_drWrite (fetch_turn h (by simp)).2
    rfl

/-- Settles O51: what the step's operation may write, at the turn that runs it. -/
theorem wireKeepsWriteOrder : Obligations.WireKeepsWriteOrder := by
  intro s s' h
  rcases step_marks_or_effect h with ⟨fs, rs, rfl, -⟩ | ⟨i, hf, e⟩
  · exact wireGrows_same (passTurn_wire s) (passTurn_txFifo s) (passTurn_owed s).le
  · obtain ⟨shifted, written, hw, hq, hg⟩ := effect_wireGrows e
    simp only [record_wire, passTurn_wire, record_txFifo, passTurn_txFifo, record_owed, passTurn_owed] at hw hq hg
    refine ⟨shifted, written, hw, hq, hg.imp_right ?_⟩
    rintro ⟨hs, ho, b, hb, hm⟩
    refine ⟨hs, ho, b, hb, ?_⟩
    simp only [State.MayWrite, record_t, passTurn_t, record_cursor, passTurn_cursor, record_locked, passTurn_locked,
      byteAt_record, byteAt_passTurn] at hm
    rcases hm with ⟨rfl, hb⟩ | ⟨rfl, hl, hc, hne, hb⟩ | ⟨v, rfl, hb⟩
    · obtain ⟨ht, hp⟩ := producer_turn (p := .kickWrite) hf rfl
      exact .inl ⟨ht, hp, hb⟩
    · obtain ⟨ht, hd⟩ := drain_turn hf (by simp)
      exact .inr (.inl ⟨ht, hd, hl, hc, hne, hb⟩)
    · exact .inr (.inr ⟨v, drWrite_turn hf, hb⟩)

end Sys2Proof.Machine
end

section
/-! PROOFS. The views computed from the state: UARTFR (10_state.md R36) and the buffer's phase (R41). -/

namespace Sys2Proof.Machine

open Sys2Proof.Config

/-! ### UARTFR -/

theorem getLsbD_insertUnder (mask old v : Word) (k : Nat) :
    (insertUnder mask old v).getLsbD k = if mask.getLsbD k then v.getLsbD k else old.getLsbD k := by
  by_cases hk : k < 32
  · rw [insertUnder, BitVec.getLsbD_or, BitVec.getLsbD_and, BitVec.getLsbD_and, BitVec.getLsbD_not]
    cases mask.getLsbD k <;> simp [hk]
  · simp [BitVec.getLsbD_of_ge _ k (Nat.le_of_not_lt hk)]

/-- The flags' mask is TXFF and TXFE. -/
theorem flagMask_bit (k : Nat) : (0xA0#32).getLsbD k = (decide (k = 5) || decide (k = 7)) := by
  by_cases hk : k < 32
  · revert k; decide
  · have h5 : k ≠ 5 := by omega
    have h7 : k ≠ 7 := by omega
    simp [BitVec.getLsbD_of_ge _ k (Nat.le_of_not_lt hk), h5, h7]

/-- Settles O34, bit by bit of the mask. -/
theorem flagRegisterFollowsTheFifo : Obligations.FlagRegisterFollowsTheFifo := by
  intro s
  simp only [State.uartFR, getLsbD_insertUnder, flagMask_bit]
  refine ⟨?_, ?_, fun k h5 h7 => by simp [h5, h7]⟩
  · by_cases he : s.txFifo = []
    · simp [he]
    · by_cases hf : s.txFifo.length = 16 <;> simp [he, hf]
  · by_cases he : s.txFifo = []
    · simp [he]
    · by_cases hf : s.txFifo.length = 16 <;> simp [he, hf]

/-! ### The buffer's phase -/

theorem armed_iff (s : State) :
    s.armed = true ↔ s.ph = Phase.guard.code ∨ s.ph = Phase.copy.code ∨ s.ph = Phase.term.code ∨
      s.ph = Phase.cursor.code ∨ s.ph = Phase.unlock.code ∨ s.ph = Phase.kickRead.code ∨ s.ph = Phase.kickWrite.code := by
  simp only [State.armed, State.loading, Bool.or_eq_true, atPhase_iff, or_assoc]

theorem bufferPhase_armed (s : State) : s.bufferPhase = .armed ↔ s.armed = true := by
  unfold State.bufferPhase
  split
  · simp [*]
  · split <;> simp [*]

theorem bufferPhase_idle (s : State) :
    s.bufferPhase = .idle ↔ s.bufferPhase ≠ .armed ∧ s.byteAt 0 = sentinel ∧ s.cursor = 0 := by
  unfold State.bufferPhase
  split
  · simp
  · split
    · next h => simpa using h
    · next h => simpa using h

theorem bufferPhase_draining (s : State) :
    s.bufferPhase = .draining ↔ s.bufferPhase ≠ .armed ∧ s.bufferPhase ≠ .idle := by
  cases s.bufferPhase <;> simp

/-- Settles O46: Armed is a matter of `ph`, Idle of the buffer, and Draining is the rest. -/
theorem bufferPhases : Obligations.BufferPhases := fun s =>
  ⟨(bufferPhase_armed s).trans (armed_iff s), bufferPhase_idle s, bufferPhase_draining s⟩

end Sys2Proof.Machine
end

section
/-! PROOFS. Accesses to the UART register block that are refused (20_memory.md R51; 43_uart_boundary.md R143). -/

namespace Sys2Proof.Machine

open Sys2Proof.Config

/-- The offset's alignment is checked before its register is looked up, so it decides also where there is none. -/
theorem decodeWrite_misaligned {off : BitVec 12} (h : off.toNat % 4 ≠ 0) (v : Word) :
    decodeWrite off v = .error .misalignedAccess := if_pos h

/-- Inside the block the width is checked before the alignment, and either one alone refuses the access. -/
theorem fetchBus_misaligned {s : State} {off : Word} {n : Nat} (hoff : off.toNat < uartBlockSize)
    (h : n ≠ 4 ∨ off.toNat % 4 ≠ 0) (v : Word) :
    fetchBus (s.params.uartBase + off) n v s = .refuse .misalignedAccess := by
  have hin : ¬ uartBlockSize ≤ off.toNat := Nat.not_le_of_lt hoff
  simp only [fetchBus, base_add_sub, if_neg hin]
  by_cases hn : n = 4
  · have ha : (off.setWidth 12).toNat % 4 ≠ 0 := toNat_offset hin ▸ h.resolve_left (not_not_intro hn)
    simp only [hn, ne_eq, not_true_eq_false, if_false, decodeWrite_misaligned ha]
  · exact if_pos hn

/-- In an initialised UART a turn that fetches a refusal records it, the schedule having moved on. -/
theorem step_of_fetchTurn_refuse {s : State} {turn : Turn} {r : Refusal} (hu : s.uartInitialised = true)
    (ht : s.turn = turn) (h : fetchTurn turn s = .refuse r) : step s = .next (s.passTurn.refuse r) := by
  simp only [step, ht, fetch_initialised hu, h]

/-- Settles O42: the bus turn fetches the refusal, whichever of width and alignment calls for it. -/
theorem misalignedAccessIsRefused : Obligations.MisalignedAccessIsRefused := by
  intro s off v n hu ht hoff h
  exact step_of_fetchTurn_refuse hu ht (fetchBus_misaligned hoff (h.imp_left Nat.ne_of_lt) v)

end Sys2Proof.Machine
end

section
/-! PROOFS. The four encodings (30_encoding.md R65 to R77; log 9): decoder and encoder are inverse to each other on the
well-formed operations, and the command decoder is total on streams (R71). -/

namespace Sys2Proof

/-! ### Decoding an encoding -/

/-- A length byte followed by that many bytes is a payload, whatever stands after it (R66). -/
theorem withPayload_append (build : List Byte → Instr) (rest : List Byte) {m : List Byte} (h : m.length ≤ 255) :
    withPayload build (BitVec.ofNat 8 m.length).toNat (m ++ rest) = .ok (build m, rest) := by
  have hlen : (BitVec.ofNat 8 m.length).toNat = m.length := by
    rw [BitVec.toNat_ofNat]
    exact Nat.mod_eq_of_lt (Nat.lt_succ_of_le h)
  simp [withPayload, hlen]

/-- The four bytes of a value give it back. -/
theorem wordOfBytes_extract (v : Word) :
    wordOfBytes (v.extractLsb' 0 8) (v.extractLsb' 8 8) (v.extractLsb' 16 8) (v.extractLsb' 24 8) = v := by
  rw [wordOfBytes, BitVec.extractLsb'_append_extractLsb'_eq_extractLsb' (by decide),
    BitVec.extractLsb'_append_extractLsb'_eq_extractLsb' (by decide),
    BitVec.extractLsb'_append_extractLsb'_eq_extractLsb' (by decide)]
  exact BitVec.extractLsb'_eq_self

/-- A register write with the bytes of `v` is the write of `v` at the offset before them. -/
theorem decode_regw_bytesOfWord (o0 : Byte) {o1 : Byte} (h : o1.toNat < 16) (v : Word) (rest : List Byte) :
    decode .regw (o0 :: o1 :: (bytesOfWord v ++ rest)) = (decodeWrite (o1.setWidth 4 ++ o0) v).map (·, rest) := by
  rw [bytesOfWord]
  simp only [List.cons_append, List.nil_append, decode, if_pos h, wordOfBytes_extract]

/-- Settles O2: a message by its length byte, a register write by its value's bytes; where there is no operand the decoder's
table is read at the operation's code. -/
theorem decodeEncodeAgree : Obligations.DecodeEncodeAgree := by
  intro i rest h
  cases i with
  | enqueue m => exact withPayload_append .enqueue rest (of_decide_eq_true h)
  | enqueueLine m => exact withPayload_append .enqueueLine rest (of_decide_eq_true h)
  | drWrite v => exact decode_regw_bytesOfWord 0x00#8 (o1 := 0x00#8) (by decide) v rest
  | iflsWrite v => exact decode_regw_bytesOfWord 0x34#8 (o1 := 0x00#8) (by decide) v rest
  | imscWrite v => exact decode_regw_bytesOfWord 0x38#8 (o1 := 0x00#8) (by decide) v rest
  | icrTx v => exact decode_regw_bytesOfWord 0x44#8 (o1 := 0x00#8) (by decide) v rest
  | _ => rfl

/-! ### Encoding what was decoded -/

/-- A byte below 16 is its low four bits. -/
theorem setWidth_setWidth_of_lt {b : Byte} (h : b.toNat < 16) : (b.setWidth 4).setWidth 8 = b := by
  apply BitVec.eq_of_toNat_eq
  rw [BitVec.toNat_setWidth_of_le (by decide), BitVec.toNat_setWidth]
  exact Nat.mod_eq_of_lt h

/-- A micro-step's word is its phase's code (R72). -/
theorem encode_of_phase {i : Instr} {p : Phase} (h : i.phase = some p) :
    encode i = [p.code.setWidth 8] ∧ i.wellFormed = true ∧ i.format = .ph := by
  cases i <;> cases h <;> exact ⟨rfl, rfl, rfl⟩

/-- An event's word is its code (R74). -/
theorem decodeEvent_ok {c : Byte} {i : Instr} (h : decodeEvent c = .ok i) :
    encode i = [c] ∧ i.wellFormed = true ∧ i.format = .evt := by
  have code : ∀ {n : Nat}, c.toNat = n → c = BitVec.ofNat 8 n := fun hn => by rw [← hn, BitVec.ofNat_toNat]; simp
  unfold decodeEvent at h
  split at h
  case h_7 => cases h
  all_goals
    next hc =>
      cases h
      exact ⟨by rw [code hc]; rfl, rfl, rfl⟩

/-- A register write's word is its offset and its value (R75), each low byte first. -/
theorem decodeWrite_ok {off : BitVec 12} {v : Word} {i : Instr} (h : decodeWrite off v = .ok i) :
    encode i = off.setWidth 8 :: (off.extractLsb' 8 4).setWidth 8 :: bytesOfWord v ∧ i.wellFormed = true ∧
      i.format = .regw := by
  unfold decodeWrite at h
  split at h
  · cases h
  repeat
    split at h
    · next ho => cases h; subst ho; exact ⟨rfl, rfl, rfl⟩
  cases h

/-- A value's bytes are the bytes it was made of: each append is skipped above its low byte. -/
theorem bytesOfWord_wordOfBytes (b0 b1 b2 b3 : Byte) : bytesOfWord (wordOfBytes b0 b1 b2 b3) = [b0, b1, b2, b3] := by
  have byte0 : (wordOfBytes b0 b1 b2 b3).extractLsb' 0 8 = b0 := BitVec.extractLsb'_append_eq_right
  have byte1 : (wordOfBytes b0 b1 b2 b3).extractLsb' 8 8 = b1 :=
    (BitVec.extractLsb'_append_eq_of_le (by decide)).trans BitVec.extractLsb'_append_eq_right
  have byte2 : (wordOfBytes b0 b1 b2 b3).extractLsb' 16 8 = b2 :=
    (BitVec.extractLsb'_append_eq_of_le (by decide)).trans
      ((BitVec.extractLsb'_append_eq_of_le (by decide)).trans BitVec.extractLsb'_append_eq_right)
  have byte3 : (wordOfBytes b0 b1 b2 b3).extractLsb' 24 8 = b3 :=
    (BitVec.extractLsb'_append_eq_of_le (by decide)).trans
      ((BitVec.extractLsb'_append_eq_of_le (by decide)).trans BitVec.extractLsb'_append_eq_left)
  rw [bytesOfWord, byte0, byte1, byte2, byte3]

theorem ok_of_map_pair {r : Except Reject Instr} {i : Instr} {more rest : List Byte}
    (h : r.map (·, more) = .ok (i, rest)) : r = .ok i ∧ more = rest := by
  cases r with
  | error e => cases h
  | ok j => cases h; exact ⟨rfl, rfl⟩

/-- Settles O3, format by format. -/
theorem encodeDecodeAgree : Obligations.EncodeDecodeAgree := by
  intro f bs rest i h
  unfold decode at h
  split at h
  · exact decodeCommand_ok h
  · cases h
  · next b more =>
    split at h
    · next hb =>
      obtain ⟨hd, rfl⟩ := ok_of_map_pair h
      obtain ⟨p, hp, hc⟩ := Machine.decodePhase_ok hd
      obtain ⟨he, hw, hf⟩ := encode_of_phase hp
      rw [he, ← Machine.ofCode_eq_some hc, setWidth_setWidth_of_lt hb]
      exact ⟨rfl, hw, hf⟩
    · cases h
  · cases h
  · obtain ⟨hd, rfl⟩ := ok_of_map_pair h
    obtain ⟨he, hw, hf⟩ := decodeEvent_ok hd
    rw [he]
    exact ⟨rfl, hw, hf⟩
  · next o0 o1 v0 v1 v2 v3 more =>
    split at h
    · next ho =>
      obtain ⟨hd, rfl⟩ := ok_of_map_pair h
      obtain ⟨he, hw, hf⟩ := decodeWrite_ok hd
      rw [he, bytesOfWord_wordOfBytes, BitVec.setWidth_append_eq_right, BitVec.extractLsb'_append_eq_left,
        setWidth_setWidth_of_lt ho]
      exact ⟨rfl, hw, hf⟩
    · cases h
  · cases h
  · cases h

/-! ### Streams (R71) -/

/-- A command is its header's two bytes and its message (R65, R66). -/
theorem encode_length_of_cmd {i : Instr} (h : i.format = .cmd) : (encode i).length = 2 + (i.message.getD []).length := by
  cases i with
  | initAsync => rfl
  | enqueue m => exact Nat.add_comm m.length 2
  | enqueueLine m => exact Nat.add_comm m.length 2
  | _ => cases h

/-- The commands of a stream stand at its head, up to where the decoder answers what ends it. -/
theorem decodeStream_spec (bs : List Byte) :
    ∃ rest, bs = encodeStream (decodeStream bs).1 ++ rest ∧ decodeCommand rest = .error (decodeStream bs).2 ∧
      ∀ i ∈ (decodeStream bs).1, i.format = .cmd ∧ i.wellFormed = true := by
  cases hd : decodeCommand bs with
  | error r =>
    rw [decodeStream_error hd]
    exact ⟨bs, rfl, hd, fun i hi => absurd hi List.not_mem_nil⟩
  | ok p =>
    obtain ⟨i, more⟩ := p
    obtain ⟨hbs, hw, hf⟩ := decodeCommand_ok hd
    have hlt : more.length < bs.length := decodeCommand_shrinks hd
    obtain ⟨rest, hrest, hend, hall⟩ := decodeStream_spec more
    rw [decodeStream_cons hd]
    refine ⟨rest, ?_, hend, List.forall_mem_cons.2 ⟨⟨hf, hw⟩, hall⟩⟩
    calc bs = encode i ++ more := hbs
      _ = encode i ++ (encodeStream (decodeStream more).1 ++ rest) := by rw [← hrest]
      _ = encodeStream (i :: (decodeStream more).1) ++ rest := (List.append_assoc _ _ _).symm
termination_by bs.length

/-- Settles O4: command by command, and each command's length by its message's. -/
theorem everyStreamDecodes : Obligations.EveryStreamDecodes := by
  intro bs
  obtain ⟨rest, hbs, hend, hall⟩ := decodeStream_spec bs
  exact ⟨rest, hbs, hend, fun i hi => ⟨(hall i hi).1, (hall i hi).2, encode_length_of_cmd (hall i hi).1⟩⟩

/-- Settles O1: the decoder's tables, read at each word. -/
theorem specWordsDecode : Obligations.SpecWordsDecode :=
  ⟨rfl, rfl, rfl, rfl, rfl, rfl, rfl, rfl, rfl, rfl, rfl⟩

end Sys2Proof
end

section
/-! PROOFS. What the machine does at the words that spell nothing: reserved and truncated commands (30_encoding.md R70), and
reserved phase codes (R73). -/

namespace Sys2Proof.Machine

/-! ### Refused commands (R70) -/

/-- Only the headers 0x01, 0x02 and 0x03 are commands'. -/
theorem decodeCommand_reservedOpcode {opc : Byte} (h : opc = 0#8 ∨ 4 ≤ opc.toNat) (len : Byte) (rest : List Byte) :
    decodeCommand (opc :: len :: rest) = .error .reservedCommand := by
  have ne : ∀ c : Byte, c ≠ 0#8 → c.toNat < 4 → opc ≠ c := by
    rintro c h0 h4 rfl
    exact h.elim h0 (Nat.not_le_of_lt h4)
  rw [decodeCommand, if_neg (ne 0x01#8 (by decide) (by decide)), if_neg (ne 0x02#8 (by decide) (by decide)),
    if_neg (ne 0x03#8 (by decide) (by decide))]

theorem withPayload_short (build : List Byte → Instr) {n : Nat} {rest : List Byte} (h : rest.length < n) :
    withPayload build n rest = .error .truncatedCommand := if_neg (Nat.not_le_of_lt h)

theorem decodeCommand_shortPayload {opc len : Byte} {rest : List Byte} (ho : opc = 0x02#8 ∨ opc = 0x03#8)
    (h : rest.length < len.toNat) : decodeCommand (opc :: len :: rest) = .error .truncatedCommand := by
  rcases ho with rfl | rfl
  · exact withPayload_short .enqueue h
  · exact withPayload_short .enqueueLine h

/-- Settles O5: the headers and lengths one by one, and the Host's turn at READY by what it fetches there. -/
theorem reservedAndTruncatedCommandsAreRefused : Obligations.ReservedAndTruncatedCommandsAreRefused := by
  refine ⟨fun opc len rest h => decodeCommand_reservedOpcode h len rest, fun len rest h => if_neg h, fun b => rfl,
    fun opc len rest => decodeCommand_shortPayload, fun s hu ht hp => ⟨fun hn => ?_, fun hn => ?_⟩⟩
  · refine ⟨step_of_fetchTurn_refuse hu ht ?_, refused_refuse _ _, passTurn_pcmd s⟩
    simp only [fetchTurn, fetchHost, hp, if_true, hn]
  · refine ⟨step_of_fetchTurn_refuse hu ht ?_, refused_refuse _ _, passTurn_pcmd s⟩
    simp only [fetchTurn, fetchHost, hp, if_true, hn]

/-! ### Reserved phases (R73) -/

theorem toNat_code_lt (p : Phase) : p.code.toNat < 0xD := by cases p <;> decide

/-- The reserved codes are no phase's. -/
theorem ofCode_reserved {c : BitVec 4} (h : 0xD ≤ c.toNat) : Phase.ofCode c = none := by
  cases hc : Phase.ofCode c with
  | none => rfl
  | some p => exact absurd (ofCode_eq_some hc ▸ toNat_code_lt p) (Nat.not_lt_of_le h)

/-- An operation leaves `ph` or writes a phase's code. -/
theorem effect_ph {s s' : State} {i : Instr} (e : Effect s i s') : s'.ph = s.ph ∨ ∃ p : Phase, s'.ph = p.code := by
  cases e
  case initAsync => exact .inr ⟨.initIfls, rfl⟩
  case enqueue => exact .inr ⟨.wait, rfl⟩
  case enqueueLine => exact .inr ⟨.wait, rfl⟩
  case idleTestPasses => exact .inr ⟨.lock, rfl⟩
  case idleTestFails => exact .inr ⟨.wait, rfl⟩
  case lock => exact .inr ⟨.guard, rfl⟩
  case guard => exact .inr ⟨.copy, rfl⟩
  case copyByte => exact .inr ⟨.copy, rfl⟩
  case copyEnds => exact .inr ⟨.term, rfl⟩
  case term => exact .inr ⟨.cursor, rfl⟩
  case cursor => exact .inr ⟨.unlock, rfl⟩
  case unlock => exact .inr ⟨.kickRead, rfl⟩
  case kickRead => exact .inr ⟨.kickWrite, rfl⟩
  case kickReturns => exact .inr ⟨.ready, rfl⟩
  case kickSecondHalf => exact .inr ⟨.wait, rfl⟩
  case initIfls => exact .inr ⟨.initImsc, rfl⟩
  case initImsc => exact .inr ⟨.initLine, rfl⟩
  case initLine => exact .inr ⟨.ready, rfl⟩
  all_goals exact .inl (by simp)

/-- Settles O6: a reserved code is no phase's, so the Producer's turn raises at it, and no operation has written it. -/
theorem reservedPhasesFaultAndAreNeverWritten : Obligations.ReservedPhasesFaultAndAreNeverWritten := by
  intro s
  constructor
  · intro hu hp ht
    have hf : fetchProducer s = .raise (.phaseCorrupt s.ph) := by
      simp only [fetchProducer, decodePhase, ofCode_reserved hp]
    simp only [step, ht, fetch_initialised hu, fetchTurn, hf]
  · intro s' h hp
    rcases step_marks_or_effect h with ⟨fs, rs, rfl, -⟩ | ⟨i, -, e⟩
    · exact passTurn_ph s
    · rcases effect_ph e with he | ⟨p, he⟩
      · simpa using he
      · exact absurd (he ▸ toNat_code_lt p) (Nat.not_lt_of_le hp)

end Sys2Proof.Machine
end

section
/-! PROOFS. One dispatched Drain invocation, whole (41_drain.md R101 to R105; 60_exceptions.md R152, R154). -/

namespace Sys2Proof.Machine

open Sys2Proof.Config

/-! ### The recorded trace (30_encoding.md R74; log 12) -/

@[simp] theorem record_trace (s : State) (i : Instr) : (s.record i).trace = s.trace ++ i.eventCode.toList := by
  unfold State.record
  split
  · next c hc => rw [hc]; rfl
  · next hc => rw [hc]; exact (List.append_nil _).symm

/-! ### The state after an invocation -/

/-- What a Drain invocation makes of `s`: ACK, then the outcome that R101 selects. -/
def State.drained (s : State) : State :=
  match s.drainOutcome with
  | .skip => s.writeICR txCause
  | .send => { (s.writeICR txCause).writeDR .drain (drValue (s.byteAt s.cursor.toNat)) with cursor := s.cursor + 1 }
  | .retire => { (s.writeICR txCause).setByte 0 sentinel with cursor := 0 }

theorem exec_drainOutcome (s : State) : exec s.drainOutcome.instr s = .next s.drained := by
  unfold State.drained
  split
  · next h => rw [h]; exact execDrainSkip_eq s h
  · next h => rw [h]; exact execDrainSend_eq s h
  · next h => rw [h]; exact execDrainRetire_eq s h

theorem drained_skip {s : State} (h : s.drainOutcome = .skip) : s.drained = s.writeICR txCause := by
  rw [State.drained, h]

theorem drained_send {s : State} (h : s.drainOutcome = .send) : s.drained =
    { (s.writeICR txCause).writeDR .drain (drValue (s.byteAt s.cursor.toNat)) with cursor := s.cursor + 1 } := by
  rw [State.drained, h]

theorem drained_retire {s : State} (h : s.drainOutcome = .retire) :
    s.drained = { (s.writeICR txCause).setByte 0 sentinel with cursor := 0 } := by
  rw [State.drained, h]

/-- ACK clears UARTRIS[5], and no outcome writes UARTRIS after it. -/
theorem drained_uartRIS (s : State) : s.drained.uartRIS = s.uartRIS &&& 0xFFFFFFDF#32 := by
  have hm : ~~~(txCause &&& causeMask) = 0xFFFFFFDF#32 := by decide
  unfold State.drained
  split <;> simp [hm]

/-- An invocation leaves the Producer, the Host and the interrupt's enables alone, and refuses nothing. -/
theorem drained_frame (s : State) :
    s.drained.ph = s.ph ∧ s.drained.msg = s.msg ∧ s.drained.i = s.i ∧ s.drained.t = s.t ∧ s.drained.tail = s.tail ∧
    s.drained.locked = s.locked ∧ s.drained.prog = s.prog ∧ s.drained.pcmd = s.pcmd ∧ s.drained.wire = s.wire ∧
    s.drained.uartIMSC = s.uartIMSC ∧ s.drained.uartIFLS = s.uartIFLS ∧ s.drained.lineEn = s.lineEn ∧
    s.drained.cpuIrqEn = s.cpuIrqEn ∧ s.drained.refusals = s.refusals := by
  unfold State.drained
  split <;> simp

@[simp] theorem drained_trace (s : State) : s.drained.trace = s.trace := by
  unfold State.drained
  split <;> simp

/-! ### The step -/

/-- The schedule and the trace are no part of what R101 selects by. -/
@[simp] theorem drainOutcome_ran (s : State) (i : Instr) : (s.passTurn.record i).drainOutcome = s.drainOutcome := by
  simp [State.drainOutcome]

/-- The state after a dispatched Drain turn. -/
def State.drainTurn (s : State) : State := (s.passTurn.record s.drainOutcome.instr).drained

theorem step_drain {s : State} (hu : s.uartInitialised = true) (ht : s.turn = .agent .drain)
    (hd : s.dispatchEnabled = true) : step s = .next s.drainTurn := by
  rw [step_of_fetchTurn hu ht (fetchDrain_dispatch hd)]
  have h := exec_drainOutcome (s.passTurn.record s.drainOutcome.instr)
  rwa [drainOutcome_ran] at h

theorem drainTurn_trace (s : State) : s.drainTurn.trace = s.trace ++ s.drainOutcome.instr.eventCode.toList := by
  simp [State.drainTurn]

/-- SKIP (R103). -/
theorem drainTurn_skip {s : State} (h : s.drainOutcome = .skip) :
    s.drainTurn.bytes = s.bytes ∧ s.drainTurn.cursor = s.cursor ∧ s.drainTurn.txFifo = s.txFifo ∧
    s.drainTurn.owed = s.owed ∧ s.drainTurn.faults = s.faults ∧ s.drainTurn.trace = s.trace ++ [0x81#8] := by
  have ht : s.drainTurn.trace = s.trace ++ [0x81#8] := by rw [drainTurn_trace, h]; rfl
  rw [State.drainTurn, drained_skip (by simpa using h)] at ht ⊢
  simpa using ht

/-- SEND (R104), where the FIFO has room. -/
theorem drainTurn_send {s : State} (h : s.drainOutcome = .send) :
    s.drainTurn.bytes = s.bytes ∧ s.drainTurn.cursor = s.cursor + 1 ∧ s.drainTurn.trace = s.trace ++ [0x82#8] ∧
    (s.txFifo.length ≠ txFifoDepth → s.drainTurn.txFifo = s.txFifo ++ [s.byteAt s.cursor.toNat] ∧
      s.drainTurn.owed = s.owed + 1 ∧ s.drainTurn.faults = s.faults) := by
  have ht : s.drainTurn.trace = s.trace ++ [0x82#8] := by rw [drainTurn_trace, h]; rfl
  rw [State.drainTurn, drained_send (by simpa using h)] at ht ⊢
  refine ⟨by simp, by simp, ht, fun hroom => ?_⟩
  rw [State.writeDR, if_neg (by simpa using hroom)]
  simp

/-- RETIRE (R105). -/
theorem drainTurn_retire {s : State} (h : s.drainOutcome = .retire) (hw : Memory.wf s.bytes = true) :
    s.drainTurn.byteAt 0 = sentinel ∧ (∀ k, k ≠ 0 → s.drainTurn.byteAt k = s.byteAt k) ∧ s.drainTurn.cursor = 0 ∧
    s.drainTurn.txFifo = s.txFifo ∧ s.drainTurn.owed = s.owed ∧ s.drainTurn.faults = s.faults ∧
    s.drainTurn.trace = s.trace ++ [0x83#8] := by
  have ht : s.drainTurn.trace = s.trace ++ [0x83#8] := by rw [drainTurn_trace, h]; rfl
  rw [State.drainTurn, drained_retire (by simpa using h)] at ht ⊢
  have hcell : ∀ k, Memory.read (Memory.write s.bytes 0 sentinel) k = if k = 0 then sentinel else s.byteAt k :=
    fun k => byteAt_setByte s 0 k sentinel hw
  refine ⟨?_, fun k hk => ?_, rfl, by simp, by simp, by simp, ht⟩
  · simpa [State.byteAt] using hcell 0
  · simpa [State.byteAt, hk] using hcell k

/-- Settles O31: the outcome that `locked`, `cursor` and `bytes[cursor]` select, with its own effect, and the frame that all
three share. -/
theorem dispatchedDrainRunsToCompletion : Obligations.DispatchedDrainRunsToCompletion := by
  intro s hu ht hd hw
  refine ⟨s.drainTurn, step_drain hu ht hd, ?_, fun hl => ?_, fun hl hc hb => ?_, fun hl hc => ?_, ?_⟩
  · simpa [State.drainTurn] using drained_uartRIS (s.passTurn.record s.drainOutcome.instr)
  · exact drainTurn_skip ((drainOutcome_skip s).2 hl)
  · obtain ⟨hbytes, hcur, htr, hroom⟩ := drainTurn_send ((drainOutcome_send s).2 ⟨hl, hc, hb⟩)
    exact ⟨hbytes, hcur ▸ toNat_cursor_succ hc, htr, hroom⟩
  · exact drainTurn_retire ((drainOutcome_retire s).2 ⟨hl, fun ⟨hlt, hb⟩ => hc.elim (Nat.not_le_of_lt hlt) hb⟩) hw
  · simpa [State.drainTurn] using drained_frame (s.passTurn.record s.drainOutcome.instr)

end Sys2Proof.Machine
end

section
/-! PROOFS. The device's books (43_uart_boundary.md R126, R130, R132; log 12). -/

namespace Sys2Proof.Machine

open Sys2Proof.Config

/-! ### The codes in the trace -/

/-- R74's table holds every step's code. -/
theorem isEventCode_eventCode (i : Instr) : i.eventCode.toList.all isEventCode = true := by cases i <;> rfl

theorem count_txEvent_eventCode (i : Instr) : i.eventCode.toList.count 0x90#8 = if i = .devTxEvent then 1 else 0 := by
  cases i <;> rfl

theorem count_shift_eventCode (i : Instr) : i.eventCode.toList.count 0x91#8 = if i = .devShift then 1 else 0 := by
  cases i <;> rfl

/-- The code is recorded by the step, and no operation writes the trace. -/
theorem effect_trace {s s' : State} {i : Instr} (e : Effect s i s') : s'.trace = s.trace := by
  cases e <;> simp [enableLine]

/-! ### What an operation does to the books -/

/-- A UARTDR write queues a byte and owes an event, or does neither. -/
theorem writeDR_balance (s : State) (w : Writer) (v : Word) :
    (s.writeDR w v).owed + s.txFifo.length = s.owed + (s.writeDR w v).txFifo.length := by
  rcases writeDR_cases s w v with ⟨-, he⟩ | ⟨-, he⟩ <;> rw [he]
  · rfl
  · simp only [List.length_append, List.length_singleton]
    omega

/-- But for the device's two events, an operation leaves the wire and owes an event for each byte it queues. -/
theorem effect_balance {s s' : State} {i : Instr} (e : Effect s i s') (ht : i ≠ .devTxEvent) (hs : i ≠ .devShift) :
    s'.wire = s.wire ∧ s'.owed + s.txFifo.length = s.owed + s'.txFifo.length := by
  cases e
  case kickReturns => exact ⟨by simp, writeDR_balance s _ _⟩
  case kickSecondHalf => exact ⟨by simp, writeDR_balance s _ _⟩
  case send => exact ⟨by simp, writeDR_balance (s.writeICR txCause) _ _⟩
  case drWrite => exact ⟨by simp, writeDR_balance s _ _⟩
  case txEvent => exact absurd rfl ht
  case shift => exact absurd rfl hs
  all_goals simp [enableLine]

/-! ### What a turn does to the books -/

theorem exec_of_step {s s' : State} {i : Instr} (h : step s = .next s') (hf : fetch s.turn s = .run i) :
    exec i (s.passTurn.record i) = .next s' := by
  simpa only [step, hf] using h

/-- The device's two events are run where they are enabled only. -/
theorem device_turn {s : State} {i : Instr} (h : fetch s.turn s = .run i) (hi : i = .devTxEvent ∨ i = .devShift) :
    (i = .devTxEvent ∧ ∃ trig, s.txTrig = some trig ∧ s.txEventEnabled trig = true) ∨
    (i = .devShift ∧ s.shiftEnabled = true) := by
  rcases fetch_run h with ⟨-, -, hc⟩ | ⟨-, p, hp, -⟩ | ⟨-, -, hd⟩ | ⟨-, ht⟩ | ⟨-, hs⟩ | ⟨-, hx, -⟩ | ⟨-, hr⟩
  · have := commandAt_format hc
    rcases hi with rfl | rfl <;> cases this
  · rcases hi with rfl | rfl <;> cases hp
  · subst hd
    cases ho : s.drainOutcome <;> simp [ho, DrainOutcome.instr] at hi
  · exact .inl ht
  · exact .inr hs
  · subst hx
    simp at hi
  · rcases hi with rfl | rfl <;> cases hr

/-- In `Owed` mode a TX event is owed before it is raised. -/
theorem owed_pos_of_txEventEnabled {s : State} {trig : Nat} (hm : s.params.txEventMode = .owed)
    (h : s.txEventEnabled trig = true) : 0 < s.owed := by
  simp only [State.txEventEnabled, hm, Bool.and_eq_true, decide_eq_true_eq] at h
  exact h.1

theorem txFifo_pos_of_shiftEnabled {s : State} (h : s.shiftEnabled = true) : 0 < s.txFifo.length := by
  simp only [State.shiftEnabled, Bool.and_eq_true, Bool.not_eq_true', List.isEmpty_eq_false_iff] at h
  exact List.length_pos_iff.2 h.1.1

/-- The books of a turn that runs `i`: a TX event pays one owed event, a shift moves one byte to the wire, and any other
operation owes what it queues. -/
theorem step_balance {s s' : State} {i : Instr} (hm : s.params.txEventMode = .owed) (h : step s = .next s')
    (hf : fetch s.turn s = .run i) :
    s'.owed + (if i = .devTxEvent then 1 else 0) + (s.wire.length + s.txFifo.length) =
      s.owed + (s'.wire.length + s'.txFifo.length) ∧
    s'.wire.length = s.wire.length + if i = .devShift then 1 else 0 := by
  have hx := exec_of_step h hf
  by_cases hi : i = .devTxEvent ∨ i = .devShift
  · rcases device_turn hf hi with ⟨rfl, trig, htrig, hen⟩ | ⟨rfl, hen⟩
    · have hpos := owed_pos_of_txEventEnabled hm hen
      have hrun := execDevTxEvent_eq (s.passTurn.record .devTxEvent) (trig := trig) (by simpa [State.txTrig] using htrig)
        (by simpa [State.txEventEnabled] using hen)
      cases hrun.symm.trans hx
      simp only [setTxRIS_wire, setTxRIS_txFifo, record_wire, passTurn_wire, record_txFifo, passTurn_txFifo, record_owed,
        passTurn_owed, if_true, reduceCtorEq, if_false]
      omega
    · have hpos := txFifo_pos_of_shiftEnabled hen
      have hrun := execDevShift_eq (s.passTurn.record .devShift)
        (by simpa [State.shiftEnabled, State.uartEn, State.txEn] using hen)
      cases hrun.symm.trans hx
      simp only [record_wire, passTurn_wire, record_txFifo, passTurn_txFifo, record_owed, passTurn_owed, List.length_append,
        List.length_take, List.length_drop, if_true, reduceCtorEq, if_false]
      omega
  · obtain ⟨ht, hs⟩ := not_or.1 hi
    obtain ⟨hw, hb⟩ := effect_balance (exec_effect hx) ht hs
    simp only [record_wire, passTurn_wire, record_owed, passTurn_owed, record_txFifo, passTurn_txFifo] at hw hb
    simp only [hw, if_neg ht, if_neg hs]
    omega

/-- Settles O56: the trace counts a TX event where the books pay one, and a shift where the wire grows. -/
theorem deviceBooksBalance : Obligations.DeviceBooksBalance := by
  intro s s' I h
  obtain ⟨mode, events, shifts, codes⟩ := I
  rcases step_marks_or_effect h with ⟨fs, rs, rfl, -⟩ | ⟨i, hf, e⟩
  · exact ⟨by simpa using mode, by simpa [State.traceCount] using events, by simpa [State.traceCount] using shifts,
      by simpa using codes⟩
  · obtain ⟨hb, hw⟩ := step_balance mode h hf
    have htr : s'.trace = s.trace ++ i.eventCode.toList := by rw [effect_trace e, record_trace, passTurn_trace]
    have hparams : s'.params = s.params := (launchStateNeverChanges s s' h).1
    simp only [State.traceCount] at events shifts
    refine ⟨hparams ▸ mode, ?_, ?_, ?_⟩
    · rw [State.traceCount, htr, List.count_append, count_txEvent_eventCode]
      omega
    · rw [State.traceCount, htr, List.count_append, count_shift_eventCode]
      omega
    · rw [htr, List.all_append, codes, isEventCode_eventCode, Bool.and_self]

end Sys2Proof.Machine
end

section
/-! PROOFS. Operations that are not enabled (log 2; 40_enqueue.md R84): each one's `require`, said once, and what it keeps
out. -/

namespace Sys2Proof.Machine

open Sys2Proof.Config

/-! ### Every operation's `require` -/

/-- A command's `require`: it stands at `pcmd`, and the Producer is READY (40_enqueue.md R82). -/
theorem exec_command {i : Instr} (h : i.format = .cmd) : ∃ body, ∀ s, exec i s = require (s.accepts i) body s := by
  cases i with
  | initAsync => exact ⟨_, fun _ => rfl⟩
  | enqueue m => exact ⟨_, fun _ => rfl⟩
  | enqueueLine m => exact ⟨_, fun _ => rfl⟩
  | _ => cases h

/-- A micro-step's `require`: `ph` names it (10_state.md R26). -/
theorem exec_microStep {i : Instr} {p : Phase} (h : i.phase = some p) :
    ∃ body, ∀ s, exec i s = require (s.atPhase p) body s := by
  cases i <;> cases h <;> exact ⟨_, fun _ => rfl⟩

/-- A Drain outcome's `require`: R101 selects it. -/
theorem exec_outcome (o : DrainOutcome) :
    ∃ body, ∀ s, exec o.instr s = require (decide (s.drainOutcome = o)) body s := by
  cases o <;> exact ⟨_, fun _ => rfl⟩

/-- Settles O9: every operation stands under its own `require`, and a TX event needs a trigger level besides. -/
theorem notEnabledOperationWaits : Obligations.NotEnabledOperationWaits := by
  intro s
  refine ⟨fun i hi h => ?_, fun i p hi h => ?_, fun o h => ?_, fun trig ht h => ?_, fun ht => ?_, fun h => ?_,
    fun h => ?_⟩
  · obtain ⟨body, he⟩ := exec_command hi
    rw [he, h, require_false]
  · obtain ⟨body, he⟩ := exec_microStep hi
    rw [he, Bool.eq_false_iff.2 fun hp => h ((atPhase_iff s p).1 hp), require_false]
  · obtain ⟨body, he⟩ := exec_outcome o
    rw [he, decide_eq_false h, require_false]
  · show execDevTxEvent s = .next s
    simp only [execDevTxEvent, ht, h, require_false]
  · show execDevTxEvent s = _
    simp only [execDevTxEvent, ht]
  · show execDevShift s = .next s
    simp only [execDevShift, h, require_false]
  · show execHostRxEvent s = .next s
    simp only [execHostRxEvent, h, require_false]

/-! ### The Host's turn (R84) -/

theorem enabled_iff {s : State} {a : AgentStep} : s.enabled a = true ↔ ∃ i, fetch (.agent a) s = .run i := by
  refine ⟨fun h => ?_, fun ⟨i, hi⟩ => enabled_of_fetch_run hi⟩
  cases hf : fetch (.agent a) s with
  | run i => exact ⟨i, rfl⟩
  | idle => simp [State.enabled, hf] at h
  | refuse r => simp [State.enabled, hf] at h
  | raise f => simp [State.enabled, hf] at h
  | stop r => simp [State.enabled, hf] at h

theorem fetchHost_busy {s : State} (h : s.ph ≠ Phase.ready.code) : fetchHost s = .idle :=
  if_neg fun hp => h ((atPhase_iff s .ready).1 hp)

/-- In an initialised UART a turn that finds nothing to do passes. -/
theorem step_of_fetchTurn_idle {s : State} {turn : Turn} (hu : s.uartInitialised = true) (ht : s.turn = turn)
    (h : fetchTurn turn s = .idle) : step s = .next s.passTurn := by
  simp only [step, ht, fetch_initialised hu, h]

/-- Settles O14: the Host fetches the command at `pcmd` at READY, and nothing elsewhere. -/
theorem commandsOnlyAtReady : Obligations.CommandsOnlyAtReady := by
  intro s hu
  refine ⟨⟨fun h => ?_, fun ⟨hp, i, hi⟩ => ?_⟩, fun ht hp => step_of_fetchTurn_idle hu ht (fetchHost_busy hp),
    fun ht => step_of_fetchTurn_refuse hu ht rfl⟩
  · obtain ⟨i, hi⟩ := enabled_iff.1 h
    rcases fetch_run hi with ⟨-, hp, hc⟩ | ⟨ht, -⟩ | ⟨ht, -⟩ | ⟨ht, -⟩ | ⟨ht, -⟩ | ⟨ht, -⟩ | ⟨ht, -⟩
    · exact ⟨(atPhase_iff s .ready).1 hp, i, commandAt_eq_ok.1 hc⟩
    all_goals cases ht
  · refine enabled_iff.2 ⟨i, (fetch_initialised hu _).trans ?_⟩
    exact fetchHost_ready ((atPhase_iff s .ready).2 hp) (commandAt_eq_ok.2 hi)

end Sys2Proof.Machine
end

section
/-! PROOFS. The Producer's micro-steps one by one (40_enqueue.md R82 to R94): each one's next state, with what it leaves
unchanged. -/

namespace Sys2Proof.Machine

open Sys2Proof.Config

/-! ### Commands -/

theorem accepts_of_ready {s : State} {i : Instr} (hp : s.ph = Phase.ready.code) (hc : commandAt s.prog s.pcmd = .ok i) :
    s.accepts i = true :=
  Bool.and_eq_true_iff.2 ⟨(atPhase_iff s .ready).2 hp, decide_eq_true hc⟩

/-- Settles O13. -/
theorem enqueueCommandsAreAccepted : Obligations.EnqueueCommandsAreAccepted := fun s _ hp =>
  ⟨fun hc => execEnqueue_eq s (accepts_of_ready hp hc), fun hc => execEnqueueLine_eq s (accepts_of_ready hp hc)⟩

/-! ### The idle test, the lock, the cursor and the latch -/

/-- Settles O15: both outcomes write `ph` only. -/
theorem idleTestReadsFirstByte : Obligations.IdleTestReadsFirstByte := by
  intro s hp
  refine (execE1Wait_eq s ((atPhase_iff s .wait).2 hp)).trans ?_
  by_cases h0 : s.byteAt 0 = 0x00#8
  · rw [if_pos h0, if_pos h0]; rfl
  · rw [if_neg h0, if_neg h0]; rfl

/-- Settles O16. -/
theorem lockIsSetAndCleared : Obligations.LockIsSetAndCleared := fun s =>
  ⟨fun hp => execE2Lock_eq s ((atPhase_iff s .lock).2 hp), fun hp => execE6Unlock_eq s ((atPhase_iff s .unlock).2 hp)⟩

/-- Settles O21. -/
theorem cursorAndLatchMicroSteps : Obligations.CursorAndLatchMicroSteps := fun s =>
  ⟨fun hp => execE5Cursor_eq s ((atPhase_iff s .cursor).2 hp),
    fun hp => execE7aKickRead_eq s ((atPhase_iff s .kickRead).2 hp)⟩

/-! ### The load -/

/-- Settles O17. -/
theorem guardWritesSentinelAtOne : Obligations.GuardWritesSentinelAtOne := fun s hp hw =>
  ⟨_, execE3Guard_eq s ((atPhase_iff s .guard).2 hp), byteAt_setByte_same s 1 sentinel hw,
    fun k hk => byteAt_setByte_other s 1 k sentinel hw hk, write_keeps_wf (by decide) hw, rfl⟩

/-- R89's condition: room, a byte of the message, and none that ends the copy. -/
theorem copyContinues_eq_true (s : State) :
    s.copyContinues = true ↔ s.i.toNat < 63 ∧ ∃ b, s.msg[s.i.toNat]? = some b ∧
      ¬ (s.params.copyStopsAtZero = true ∧ b = sentinel) := by
  by_cases hm : s.i.toNat < s.msg.length
  · simp [State.copyContinues, hm, imp_iff_not_or]
  · simp [State.copyContinues, hm]

/-- Settles O18: the two branches of R89's condition. -/
theorem copyMovesOneByte : Obligations.CopyMovesOneByte := by
  intro s hp hw
  have hcopy := (atPhase_iff s .copy).2 hp
  constructor
  · intro b hi hb hz
    have hc : s.copyContinues = true := (copyContinues_eq_true s).2 ⟨hi, b, hb, hz⟩
    have hd : s.msg.getD s.i.toNat 0 = b := by rw [List.getD_eq_getElem?_getD, hb]; rfl
    have he := execE4aCopy_copy s hcopy hc
    rw [hd] at he
    refine ⟨_, he, byteAt_setByte_same s _ b hw, fun k hk => byteAt_setByte_other s _ k b hw hk,
      write_keeps_wf (Nat.lt_succ_of_lt hi) hw, (copy_bound hc).2.1, ?_⟩
    show { s with ph := Phase.copy.code } = s
    rw [← hp]
  · intro h
    refine execE4aCopy_done s hcopy (Bool.eq_false_iff.2 fun hc => ?_)
    obtain ⟨hi, b, hb, hz⟩ := (copyContinues_eq_true s).1 hc
    rcases h with h | h | ⟨hs, h⟩
    · omega
    · rw [List.getElem?_eq_none h] at hb
      cases hb
    · exact hz ⟨hs, Option.some.inj (hb.symm.trans h)⟩

/-- Settles O19. -/
theorem sentinelIsAppended : Obligations.SentinelIsAppended := fun s hp hi hw =>
  ⟨_, execE4bTerm_eq s ((atPhase_iff s .term).2 hp) hi, byteAt_setByte_same s _ sentinel hw,
    fun k hk => byteAt_setByte_other s _ k sentinel hw hk, write_keeps_wf hi hw, rfl⟩

/-- Settles O20: a stop is E4b's, by the inversion of `exec`. -/
theorem onlyAnOffsetOutsideTheBufferStops : Obligations.OnlyAnOffsetOutsideTheBufferStops := by
  intro i s
  refine ⟨fun hp hi => execE4bTerm_outside s ((atPhase_iff s .term).2 hp) (Nat.not_lt_of_le hi), ?_⟩
  by_cases h : ∃ s', exec i s = .next s'
  · exact .inl h
  · obtain ⟨rfl, hp, hi⟩ := exec_stops fun s' h' => h ⟨s', h'⟩
    exact .inr ⟨rfl, (atPhase_iff s .term).1 hp, Nat.le_of_not_lt hi⟩

/-! ### The kick -/

theorem mem_faults_raise (s : State) (f : Fault) : f ∈ (s.raise f).faults := by
  rw [raise_faults]
  split
  · next h => exact List.contains_iff_mem.1 h
  · exact List.mem_append_right _ (List.mem_singleton_self f)

/-- What writing a byte to UARTDR does, with room and without (43_uart_boundary.md R123, R124). -/
theorem writeDR_byte (s : State) (w : Writer) (b : Byte) :
    (s.txFifo.length ≠ 16 → (s.writeDR w (drValue b)).txFifo = s.txFifo ++ [b] ∧
      (s.writeDR w (drValue b)).owed = s.owed + 1 ∧ (s.writeDR w (drValue b)).faults = s.faults) ∧
    (s.txFifo.length = 16 → (s.writeDR w (drValue b)).txFifo = s.txFifo ∧ (s.writeDR w (drValue b)).owed = s.owed ∧
      .txOverflow b w ∈ (s.writeDR w (drValue b)).faults ∧ s.faults ⊆ (s.writeDR w (drValue b)).faults) := by
  rcases writeDR_cases s w (drValue b) with ⟨hfull, he⟩ | ⟨hroom, he⟩ <;> rw [he, extract_drValue]
  · exact ⟨fun h => absurd hfull h, fun _ => ⟨rfl, rfl, mem_faults_raise s _, (marksAdded_raise s _).2.1⟩⟩
  · exact ⟨fun _ => ⟨rfl, rfl, rfl⟩, fun h => absurd h hroom⟩

/-- A UARTDR write touches the FIFO, the owed events and the faults only. -/
theorem writeDR_frame (s : State) (w : Writer) (v : Word) :
    { s.writeDR w v with txFifo := s.txFifo, owed := s.owed, faults := s.faults } = s := by
  rcases writeDR_cases s w v with ⟨-, he⟩ | ⟨-, he⟩
  · rw [he]; rfl
  · rw [he]

/-- Settles O22: the write is the same in both halves, which differ in where the Producer goes on. -/
theorem kickWriteSendsTheLatch : Obligations.KickWriteSendsTheLatch := by
  intro s hp
  obtain ⟨hroom, hfull⟩ := writeDR_byte s .producer s.t
  have he := execE7bKickWrite_eq s ((atPhase_iff s .kickWrite).2 hp)
  have hrest := congrArg (fun u : State => { u with tail := s.tail, msg := s.msg, ph := s.ph })
    (writeDR_frame s .producer (drValue s.t))
  cases ht : s.tail with
  | false =>
    rw [ht, if_neg Bool.false_ne_true] at he
    exact ⟨_, he, fun _ => ⟨(writeDR_tail s _ _).trans ht, writeDR_msg s _ _, rfl⟩, nofun, hroom, hfull, ht ▸ hrest⟩
  | true =>
    rw [ht, if_pos rfl] at he
    exact ⟨_, he, nofun, fun _ => ⟨rfl, rfl, rfl⟩, hroom, hfull, ht ▸ hrest⟩

end Sys2Proof.Machine
end

section
/-! PROOFS. The stored part of a message (40_enqueue.md R95, R96), and the copy that stops at its end (R89). -/

namespace Sys2Proof.Machine

open Sys2Proof.Config

theorem storedPart_prefix (m : List Byte) : storedPart true m <+: m :=
  (List.takeWhile_prefix _).trans (List.take_prefix _ _)

theorem length_storedPart_le (m : List Byte) :
    (storedPart true m).length ≤ 63 ∧ (storedPart true m).length ≤ m.length :=
  ⟨(List.takeWhile_prefix _).length_le.trans (List.length_take_le _ _), (storedPart_prefix m).length_le⟩

theorem getElem?_storedPart {m : List Byte} {k : Nat} (h : k < (storedPart true m).length) :
    (storedPart true m)[k]? = m[k]? := by
  rw [List.prefix_iff_eq_take.1 (storedPart_prefix m), List.getElem?_take_of_lt h]

theorem ne_sentinel_of_mem_storedPart {m : List Byte} {b : Byte} (h : b ∈ storedPart true m) : b ≠ sentinel := by
  have := List.mem_takeWhile_imp h
  simpa using this

/-- CR LF is stored whole. -/
theorem storedPart_crlf : storedPart true crlf = crlf := by decide

/-- What ends the stored part: the buffer's room, the message's end, or a 0x00. -/
theorem storedPart_ends (m : List Byte) :
    (storedPart true m).length = 63 ∨ (storedPart true m).length = m.length ∨
      m[(storedPart true m).length]? = some sentinel := by
  have hsplit : storedPart true m ++ (m.take 63).dropWhile (· != sentinel) = m.take 63 := List.takeWhile_append_dropWhile
  cases hrest : (m.take 63).dropWhile (· != sentinel) with
  | nil =>
    rw [hrest, List.append_nil] at hsplit
    have := congrArg List.length hsplit
    rw [List.length_take] at this
    omega
  | cons b rest =>
    have hb : b = sentinel := by
      have := List.head_dropWhile_not (l := m.take 63) (· != sentinel) (by simp [hrest])
      simpa [hrest] using this
    have hat : (m.take 63)[(storedPart true m).length]? = some b := by
      rw [← hsplit, hrest, List.getElem?_append_right (Nat.le_refl _), Nat.sub_self]; rfl
    have hlt : (storedPart true m).length < 63 := by
      by_contra hge
      rw [List.getElem?_take_eq_none (by omega)] at hat
      cases hat
    rw [List.getElem?_take_of_lt hlt, hb] at hat
    exact .inr (.inr hat)

/-- Settles O26: the count is the stored part's own length. -/
theorem storedPartIsTheTruncatedMessage : Obligations.StoredPartIsTheTruncatedMessage := by
  intro m
  obtain ⟨h63, hm⟩ := length_storedPart_le m
  refine ⟨_, List.prefix_iff_eq_take.1 (storedPart_prefix m), h63, hm, fun k hk h0 => ?_, storedPart_ends m⟩
  rw [← getElem?_storedPart hk] at h0
  exact ne_sentinel_of_mem_storedPart (List.mem_of_getElem? h0) rfl

/-- The byte that a copying step moves is the stored part's. -/
theorem getD_eq_storedPart {m : List Byte} {k : Nat} (h : k < (storedPart true m).length) :
    (storedPart true m)[k]? = some (m.getD k 0) := by
  have hk : k < m.length := h.trans_le (length_storedPart_le m).2
  rw [getElem?_storedPart h, List.getD_eq_getElem _ _ hk, List.getElem?_eq_getElem hk]

/-- Up to the end of the stored part, E4a copies before the end and leaves the loop at it. -/
theorem copyContinues_iff {s : State} (hs : s.params.copyStopsAtZero = true)
    (hi : s.i.toNat ≤ (storedPart true s.msg).length) :
    s.copyContinues = true ↔ s.i.toNat < (storedPart true s.msg).length := by
  obtain ⟨h63, hm⟩ := length_storedPart_le s.msg
  constructor
  · intro hc
    obtain ⟨hi63, -, him⟩ := copy_bound hc
    refine Nat.lt_of_le_of_ne hi fun he => ?_
    rcases storedPart_ends s.msg with h | h | h <;> rw [← he] at h
    · omega
    · omega
    · exact copied_byte hc hs (by rw [List.getD_eq_getElem?_getD, h]; rfl)
  · intro hlt
    have hb : s.msg.getD s.i.toNat 0 ≠ sentinel :=
      ne_sentinel_of_mem_storedPart (List.mem_of_getElem? (getD_eq_storedPart hlt))
    simp only [State.copyContinues, hs, Bool.true_and, Bool.and_eq_true, decide_eq_true_eq, Bool.not_eq_true',
      beq_eq_false_iff_ne, capacity]
    exact ⟨⟨by omega, by omega⟩, hb⟩

end Sys2Proof.Machine
end

section
/-! PROOFS. The Producer's micro-steps in a row, with no other agent in between (40_enqueue.md R85, R95, R96, R98). -/

namespace Sys2Proof.Machine

open Sys2Proof.Config

/-! ### Runs of micro-steps -/

theorem producerMove_at {s : State} {p : Phase} {i : Instr} (hp : s.ph = p.code) (hi : p.microStep = some i) :
    producerMove s = exec i s := by
  have hd : decodePhase s.ph = .ok i := by simp only [decodePhase, hp, ofCode_code, hi]
  simp only [producerMove, hd]

theorem producerMoves_add (a b : Nat) (s : State) :
    producerMoves (a + b) s = thenDo (producerMoves a s) (producerMoves b) := by
  induction a generalizing s with
  | zero => rw [Nat.zero_add]; rfl
  | succ a ih =>
    rw [Nat.succ_add, producerMoves, producerMoves]
    cases producerMove s with
    | next t => exact ih t
    | fault e => rfl
    | refused e => rfl

theorem producerMoves_trans {a b : Nat} {s t u : State} (ha : producerMoves a s = .next t)
    (hb : producerMoves b t = .next u) : producerMoves (a + b) s = .next u := by
  rw [producerMoves_add, ha, thenDo_next, hb]

/-- One micro-step, at the phase that names it. -/
theorem producerMoves_one {s t : State} (p : Phase) {i : Instr} (hp : s.ph = p.code) (hi : p.microStep = some i)
    (h : exec i s = .next t) : producerMoves 1 s = .next t := by
  rw [producerMoves, producerMove_at hp hi, h]
  rfl

/-! ### The load -/

/-- The state with the load's own fields replaced: the buffer, `i` and `ph`. -/
def State.putLoad (bytes : Memory) (i : BitVec cursorWidth) (ph : BitVec 4) (s : State) : State :=
  { s with bytes := bytes, i := i, ph := ph }

/-- `u` is `s` but for the load's own fields. -/
def State.LoadFrame (s u : State) : Prop := u.putLoad s.bytes s.i s.ph = s

theorem loadFrame_of_eq {s u : State} {m m' : Memory} {i i' : BitVec cursorWidth} {p p' : BitVec 4}
    (h : u.putLoad m i p = s.putLoad m' i' p') : s.LoadFrame u :=
  (congrArg (State.putLoad s.bytes s.i s.ph) h).trans rfl

theorem loadFrame_trans {s t u : State} (ht : s.LoadFrame t) (hu : t.LoadFrame u) : s.LoadFrame u :=
  (congrArg (State.putLoad s.bytes s.i s.ph) hu).trans ht

theorem loadFrame_fields {s u : State} (h : s.LoadFrame u) :
    u.msg = s.msg ∧ u.params = s.params ∧ u.tail = s.tail ∧ u.txFifo = s.txFifo ∧ u.owed = s.owed ∧
      u.faults = s.faults := by
  rw [← h]
  exact ⟨rfl, rfl, rfl, rfl, rfl, rfl⟩

/-- `k` bytes of the stored part of `s` are copied in `u`, and nothing else is changed. -/
structure State.Copied (s u : State) (k : Nat) : Prop where
  bytes_wf : Memory.wf u.bytes = true
  index : u.i.toNat = k
  phase : u.ph = Phase.copy.code
  stored : ∀ j, j < k → (storedPart true s.msg)[j]? = some (u.byteAt j)
  rest : ∀ j, k ≤ j → u.byteAt j = s.byteAt j
  frame : s.LoadFrame u

/-- As many copying steps as the stored part has bytes copy it, byte by byte. -/
theorem producerMoves_copy {s : State} (hp : s.ph = Phase.copy.code) (hw : Memory.wf s.bytes = true)
    (hi : s.i.toNat = 0) {k : Nat} (hk : k ≤ (storedPart true s.msg).length) :
    ∃ u, producerMoves k s = .next u ∧ s.Copied u k := by
  induction k with
  | zero => exact ⟨s, rfl, hw, hi, hp, nofun, fun _ _ => rfl, rfl⟩
  | succ k ih =>
    obtain ⟨u, hu, C⟩ := ih (Nat.le_of_succ_le hk)
    obtain ⟨hmsg, -⟩ := loadFrame_fields C.frame
    have hlt : k < (storedPart true s.msg).length := hk
    have h63 : k < 63 := hlt.trans_le (length_storedPart_le s.msg).1
    have hb : (storedPart true s.msg)[k]? = some (storedPart true s.msg)[k] := List.getElem?_eq_getElem hlt
    have hne : (storedPart true s.msg)[k] ≠ sentinel := ne_sentinel_of_mem_storedPart (List.getElem_mem hlt)
    obtain ⟨t, ht, hcell, hother, hwt, hit, hft⟩ := (copyMovesOneByte u C.phase C.bytes_wf).1 _
      (C.index ▸ h63) (by rw [hmsg, C.index, ← getElem?_storedPart hlt, hb]) (fun h => hne h.2)
    rw [C.index] at hcell hother hit
    refine ⟨t, producerMoves_trans hu (producerMoves_one .copy C.phase rfl ht), hwt, hit, ?_, fun j hj => ?_,
      fun j hj => ?_, ?_⟩
    · rw [← C.phase, ← hft]
    · by_cases hjk : j = k
      · rw [hjk, hb, hcell]
      · rw [hother j hjk]
        exact C.stored j (by omega)
    · rw [hother j (by omega)]
      exact C.rest j (by omega)
    · exact loadFrame_trans C.frame (loadFrame_of_eq (m := u.bytes) (m' := u.bytes) hft)

/-- At the stored part's end the copy's exit condition holds (R89). -/
theorem copy_exit {s u : State} (hs : s.params.copyStopsAtZero = true) (C : s.Copied u (storedPart true s.msg).length) :
    63 ≤ u.i.toNat ∨ u.msg.length ≤ u.i.toNat ∨
      (u.params.copyStopsAtZero = true ∧ u.msg[u.i.toNat]? = some 0x00#8) := by
  obtain ⟨hmsg, hpar, -⟩ := loadFrame_fields C.frame
  rw [C.index, hmsg, hpar]
  rcases storedPart_ends s.msg with h | h | h
  · exact .inl (Nat.le_of_eq h.symm)
  · exact .inr (.inl (Nat.le_of_eq h.symm))
  · exact .inr (.inr ⟨hs, h⟩)

/-- Settles O25: E3, the copy byte by byte, its exit, and E4b. -/
theorem loadStoresTheMessage : Obligations.LoadStoresTheMessage := by
  intro s hp hw hs
  obtain ⟨g, hg, hg1, hgo, hwg, hfg⟩ := guardWritesSentinelAtOne s hp hw
  have Fg : s.LoadFrame g := loadFrame_of_eq (m := s.bytes) (m' := s.bytes) hfg
  obtain ⟨hmsg, hpar, -⟩ := loadFrame_fields Fg
  have hgp : g.ph = Phase.copy.code := congrArg State.ph hfg
  have hgi : g.i.toNat = 0 := congrArg (fun x : State => x.i.toNat) hfg
  obtain ⟨u, hu, C⟩ := producerMoves_copy hgp hwg hgi (Nat.le_refl _)
  have hexit := (copyMovesOneByte u C.phase C.bytes_wf).2 (copy_exit (hpar ▸ hs) C)
  obtain ⟨hwu, hi, hup, hstored, hrest, Fu⟩ := C
  rw [hmsg] at hu hi hstored hrest
  have hn := (length_storedPart_le s.msg).1
  obtain ⟨t, ht, hti, hto, hwt, hft⟩ := sentinelIsAppended { u with ph := Phase.term.code } rfl
    (by show u.i.toNat < 64; omega) hwu
  have Ft : u.LoadFrame t := loadFrame_of_eq (m := u.bytes) (m' := u.bytes) hft
  have hto : ∀ k, k ≠ (storedPart true s.msg).length → t.byteAt k = u.byteAt k :=
    fun k hk => hto k (by rwa [← hi] at hk)
  have hti : t.byteAt (storedPart true s.msg).length = 0x00#8 := hi ▸ hti
  refine ⟨t, ?_, fun k hk => ?_, hti, fun h1 => ?_, fun k hk hk1 => ?_, ?_, congrArg State.ph hft, hwt,
    loadFrame_trans Fg (loadFrame_trans Fu Ft)⟩
  · have moves := producerMoves_trans (producerMoves_one .guard hp rfl hg) (producerMoves_trans hu
      (producerMoves_trans (producerMoves_one .copy hup rfl hexit) (producerMoves_one .term rfl rfl ht)))
    rwa [show 1 + ((storedPart true s.msg).length + (1 + 1)) = (storedPart true s.msg).length + 3 by omega] at moves
  · rw [hto k (Nat.ne_of_lt hk)]
    exact hstored k hk
  · by_cases h : 1 = (storedPart true s.msg).length
    · rwa [← h] at hti
    · rw [hto 1 h, hrest 1 h1, hg1]
  · rw [hto k (Nat.ne_of_gt hk), hrest k (Nat.le_of_lt hk), hgo k hk1]
  · exact (congrArg (fun x : State => x.i.toNat) hft).trans hi

/-! ### One enqueue (R85, R98) -/

/-- From CURSOR to the kick's return, with room in the FIFO and no second half: `bytes[0]` goes to UARTDR. -/
theorem producerMoves_kick {s : State} (hp : s.ph = Phase.cursor.code) (hroom : s.txFifo.length ≠ 16)
    (ht : s.tail = false) :
    ∃ t, producerMoves 4 s = .next t ∧ t.txFifo = s.txFifo ++ [s.byteAt 0] ∧ t.owed = s.owed + 1 ∧
      t.ph = Phase.ready.code ∧ t.cursor = 1 ∧ t.locked = false ∧ t.faults = s.faults ∧ t.bytes = s.bytes := by
  have h5 := (cursorAndLatchMicroSteps s).1 hp
  have h6 := (lockIsSetAndCleared { s with cursor := 1, ph := Phase.unlock.code }).2 rfl
  have h7a := (cursorAndLatchMicroSteps { s with cursor := 1, locked := false, ph := Phase.kickRead.code }).2 rfl
  obtain ⟨t, h7b, hback, -, hwrite, -, hframe⟩ := kickWriteSendsTheLatch
    { s with cursor := 1, locked := false, t := s.byteAt 0, ph := Phase.kickWrite.code } rfl
  obtain ⟨hf, ho, hfl⟩ := hwrite hroom
  have moves := producerMoves_trans (producerMoves_one .cursor hp rfl h5)
    (producerMoves_trans (producerMoves_one .unlock rfl rfl h6) (producerMoves_trans
      (producerMoves_one .kickRead rfl rfl h7a) (producerMoves_one .kickWrite rfl rfl h7b)))
  exact ⟨t, moves, hf, ho, (hback ht).2.2, congrArg State.cursor hframe, congrArg State.locked hframe, hfl,
    (congrArg State.bytes hframe).trans rfl⟩

/-- Settles O27: the idle test and the lock, the load, and the kick. -/
theorem uninterruptedEnqueueSendsFirstByte : Obligations.UninterruptedEnqueueSendsFirstByte := by
  intro s hp h0 hw hs hroom htail
  have h1 := idleTestReadsFirstByte s hp
  rw [if_pos h0] at h1
  have h2 := (lockIsSetAndCleared { s with ph := Phase.lock.code }).1 rfl
  obtain ⟨u, hu, hstored, hend, hone, -, -, hup, -, F⟩ :=
    loadStoresTheMessage { s with locked := true, ph := Phase.guard.code } rfl hw hs
  obtain ⟨-, -, hut, huf, huo, huu⟩ := loadFrame_fields F
  obtain ⟨t, ht, hf, ho, hph, hcur, hl, hfl, hb⟩ := producerMoves_kick hup (huf ▸ hroom) (hut.trans htail)
  have hfirst : u.byteAt 0 = (storedPart true s.msg).headD 0x00#8 := by
    cases hsp : storedPart true s.msg with
    | nil => simpa [hsp] using hend
    | cons b bs => simpa [hsp] using (hstored 0 (by simp [hsp])).symm
  refine ⟨t, ?_, ?_, ho.trans (congrArg (· + 1) huo), hph, hcur, hl, hfl.trans huu, fun hnil => ?_⟩
  · have moves := producerMoves_trans (producerMoves_one .wait hp rfl h1)
      (producerMoves_trans (producerMoves_one .lock rfl rfl h2) (producerMoves_trans hu ht))
    rwa [show 1 + (1 + ((storedPart true s.msg).length + 3 + 4)) = (storedPart true s.msg).length + 9 by omega] at moves
  · rw [hf, huf, hfirst]
  · rw [byteAt_congr hb, byteAt_congr hb, hfirst, hnil]
    exact ⟨rfl, hone (by rw [hnil]; decide)⟩

end Sys2Proof.Machine
end

section
/-! PROOFS. The window's invariant (70_reset_and_hazards.md R167): every operation keeps it. -/

namespace Sys2Proof.Machine

open Sys2Proof.Config

/-- A move of the phase that leaves the buffer alone keeps the window's invariant, where it does not enter the copy, and
enters LOCK with `bytes[0]` at the sentinel only. -/
theorem windowInv_move {s u : State} {p : Phase} (q : Phase) (B : u.BufferInv) (I : s.WindowInv)
    (hp : s.atPhase p = true) (hq : u.ph = q.code) (hpn : p ∉ [Phase.guard, .copy, .term, .cursor])
    (hqn : q ∉ [Phase.copy, .term, .cursor]) (hlock : q = .lock → s.byteAt 0 = sentinel)
    (hbytes : u.bytes = s.bytes) (hcur : u.cursor = s.cursor) (hpar : u.params = s.params) : u.WindowInv := by
  obtain ⟨hs, -, hn, -⟩ := (windowInv_at ((atPhase_iff _ _).1 hp) I.buffer).1 I
  have hb := byteAt_congr hbytes
  refine (windowInv_at hq B).2 ⟨hpar ▸ hs, fun h => absurd h hqn, fun _ h0 => ?_, fun h => (hb 0).trans (hlock h)⟩
  rw [hcur, hb 1]
  exact hn hpn (hb 0 ▸ h0)

section Load

variable {s : State}

/-- E4a, copying: the first byte copied is no 0x00, as the copy stops there. -/
theorem windowInv_copyByte (h : s.atPhase .copy = true) (hc : s.copyContinues = true) (I : s.WindowInv) :
    { (s.setByte s.i.toNat (s.msg.getD s.i.toNat 0)).setPh .copy with i := s.i + 1 }.WindowInv := by
  obtain ⟨hs, hfirst, -⟩ := (windowInv_at ((atPhase_iff _ _).1 h) I.buffer).1 I
  refine (windowInv_at (p := .copy) rfl (bufferInv_copyByte h hc I.buffer)).2 ⟨hs, fun _ _ => ?_, by simp, by simp⟩
  show (s.setByte s.i.toNat (s.msg.getD s.i.toNat 0)).byteAt 0 ≠ sentinel
  rw [byteAt_setByte _ _ _ _ I.buffer.bytes_wf]
  split
  · exact copied_byte hc hs
  · next h0 => exact hfirst (by decide) fun hi => h0 (by rw [hi]; rfl)

/-- E4b: where a byte was copied, the sentinel comes after the first. -/
theorem windowInv_term (h : s.atPhase .term = true) (hi : s.i.toNat < capacity) (I : s.WindowInv) :
    ((s.setByte s.i.toNat sentinel).setPh .cursor).WindowInv := by
  obtain ⟨hs, hfirst, -⟩ := (windowInv_at ((atPhase_iff _ _).1 h) I.buffer).1 I
  refine (windowInv_at (p := .cursor) rfl (bufferInv_term h hi I.buffer)).2 ⟨hs, fun _ h0 => ?_, by simp, by simp⟩
  have hne : 0 ≠ s.i.toNat := fun he => h0 (BitVec.eq_of_toNat_eq he.symm)
  rw [byteAt_setPh, byteAt_setByte_other _ _ _ _ I.buffer.bytes_wf hne]
  exact hfirst (by decide) h0

/-- E5: where `bytes[0]` is 0x00 nothing was copied, and E3's sentinel stands at 1. -/
theorem windowInv_cursor (h : s.atPhase .cursor = true) (I : s.WindowInv) :
    { s.setPh .unlock with cursor := 1 }.WindowInv := by
  obtain ⟨hs, hfirst, -⟩ := (windowInv_at ((atPhase_iff _ _).1 h) I.buffer).1 I
  refine (windowInv_at (p := .unlock) rfl (bufferInv_cursor h I.buffer)).2
    ⟨hs, by simp, fun _ h0 => .inr ⟨rfl, ?_⟩, by simp⟩
  have hi : s.i = 0 := by_contra fun hi => hfirst (by decide) hi h0
  exact I.buffer.guard_kept (by simp [h]) hi

end Load

/-- Where the lock is open the Producer is in no phase of the load. -/
theorem atPhase_of_unlocked {s : State} (I : s.BufferInv) (hl : s.locked = false) :
    s.rewriting = false ∧ (s.atPhase .copy || s.atPhase .term || s.atPhase .cursor) = false := by
  have hn : s.loading = false := I.lock_span ▸ hl
  simp only [State.loading, Bool.or_eq_false_iff] at hn
  simp [State.rewriting, hn]

/-- SEND is taken only where `bytes[0]` is not 0x00: else `cursor` is at a sentinel. -/
theorem first_ne_of_send {s : State} (I : s.WindowInv) (hl : s.locked = false)
    (hb : s.byteAt s.cursor.toNat ≠ sentinel) : s.byteAt 0 ≠ sentinel := by
  intro h0
  rcases I.nothing_to_send (atPhase_of_unlocked I.buffer hl).1 h0 with hc | ⟨hc, h1⟩ <;> rw [hc] at hb
  · exact hb h0
  · exact hb h1

theorem windowInv_send {s u : State} (B : u.BufferInv) (I : s.WindowInv) (hl : s.locked = false)
    (hb : s.byteAt s.cursor.toNat ≠ sentinel) (hbytes : u.bytes = s.bytes) (hph : u.ph = s.ph)
    (hpar : u.params = s.params) : u.WindowInv := by
  have h0 : u.byteAt 0 ≠ sentinel := byteAt_congr hbytes 0 ▸ first_ne_of_send I hl hb
  refine ⟨B, hpar ▸ I.stops, fun _ _ => h0, fun _ h => absurd h h0, fun h => ?_⟩
  exact absurd (I.idle_seen (atPhase_congr hph _ ▸ h)) (first_ne_of_send I hl hb)

theorem windowInv_retire {s u : State} (B : u.BufferInv) (I : s.WindowInv) (hl : s.locked = false)
    (h0 : u.byteAt 0 = sentinel) (hcur : u.cursor = 0) (hph : u.ph = s.ph) (hpar : u.params = s.params) :
    u.WindowInv := by
  refine ⟨B, hpar ▸ I.stops, fun h => ?_, fun _ _ => .inl hcur, fun _ => h0⟩
  simp only [atPhase_congr hph, (atPhase_of_unlocked I.buffer hl).2, Bool.false_eq_true] at h

/-- Every operation keeps the window's invariant: the load's micro-steps one by one, SEND and RETIRE by what they leave at
`bytes[0]` and `cursor`, the other micro-steps and the commands as moves of the phase. -/
theorem effect_keeps_windowInv {s s' : State} {i : Instr} (e : Effect s i s') (I : s.WindowInv) : s'.WindowInv := by
  have B := effect_keeps_bufferInv e I.buffer
  cases e with
  | waits => exact I
  | initAsync h =>
    exact windowInv_move .initIfls B I (Bool.and_eq_true_iff.1 h).1 rfl (by decide) (by decide) (by simp) rfl rfl rfl
  | enqueue m h =>
    exact windowInv_move .wait B I (Bool.and_eq_true_iff.1 h).1 rfl (by decide) (by decide) (by simp) rfl rfl rfl
  | enqueueLine m h =>
    exact windowInv_move .wait B I (Bool.and_eq_true_iff.1 h).1 rfl (by decide) (by decide) (by simp) rfl rfl rfl
  | idleTestPasses h h0 => exact windowInv_move .lock B I h rfl (by decide) (by decide) (fun _ => h0) rfl rfl rfl
  | idleTestFails h => exact windowInv_move .wait B I h rfl (by decide) (by decide) (by simp) rfl rfl rfl
  | lock h => exact windowInv_move .guard B I h rfl (by decide) (by decide) (by simp) rfl rfl rfl
  | guard h => exact (windowInv_at (p := .copy) rfl B).2 ⟨I.stops, fun _ h0 => absurd rfl h0, by simp, by simp⟩
  | copyByte h hc => exact windowInv_copyByte h hc I
  | copyEnds h =>
    obtain ⟨hs, hfirst, -⟩ := (windowInv_at ((atPhase_iff _ _).1 h) I.buffer).1 I
    exact (windowInv_at (p := .term) rfl B).2 ⟨hs, fun _ => hfirst (by decide), by simp, by simp⟩
  | term h hi => exact windowInv_term h hi I
  | cursor h => exact windowInv_cursor h I
  | unlock h => exact windowInv_move .kickRead B I h rfl (by decide) (by decide) (by simp) rfl rfl rfl
  | kickRead h => exact windowInv_move .kickWrite B I h rfl (by decide) (by decide) (by simp) rfl rfl rfl
  | kickReturns h =>
    exact windowInv_move .ready B I h rfl (by decide) (by decide) (by simp) (by simp) (by simp) (by simp)
  | kickSecondHalf h =>
    exact windowInv_move .wait B I h rfl (by decide) (by decide) (by simp) (by simp) (by simp) (by simp)
  | initIfls h => exact windowInv_move .initImsc B I h rfl (by decide) (by decide) (by simp) rfl rfl rfl
  | initImsc h => exact windowInv_move .initLine B I h rfl (by decide) (by decide) (by simp) rfl rfl rfl
  | initLine h => exact windowInv_move .ready B I h rfl (by decide) (by decide) (by simp) rfl rfl rfl
  | send hl _ hb => exact windowInv_send B I hl hb (by simp) (by simp) (by simp)
  | retire hl =>
    exact windowInv_retire B I hl (byteAt_setByte_same (s.writeICR txCause) 0 _ I.buffer.bytes_wf) rfl rfl rfl
  | skip => exact windowInv_congr (s := s) B rfl rfl rfl rfl rfl I
  | noTrigger => exact windowInv_congr (s := s) B rfl rfl rfl rfl rfl I
  | txEvent => exact windowInv_congr (s := s) B rfl rfl rfl rfl rfl I
  | shift => exact windowInv_congr (s := s) B rfl rfl rfl rfl rfl I
  | rxEvent => exact windowInv_congr (s := s) B rfl rfl rfl rfl rfl I
  | imscWrite => exact windowInv_congr (s := s) B rfl rfl rfl rfl rfl I
  | icrTx => exact windowInv_congr (s := s) B rfl rfl rfl rfl rfl I
  | drWrite => exact windowInv_congr B (by simp) (by simp) (by simp) (by simp) (by simp) I
  | iflsWrite => exact windowInv_congr B (by simp) (by simp) (by simp) (by simp) (by simp) I

end Sys2Proof.Machine
end

section
/-! PROOFS. The single writer of UARTDR (70_reset_and_hazards.md R171): under its premises every operation of an agent keeps
the invariant, and none overflows the FIFO. -/

namespace Sys2Proof.Machine

open Sys2Proof.Config

/-! ### The transmit cause -/

@[simp] theorem txRIS_ack (s : State) : (s.writeICR txCause).txRIS = false := by
  simp [State.txRIS, State.writeICR, txCause, causeMask]

@[simp] theorem rxRIS_ack (s : State) : (s.writeICR txCause).rxRIS = s.rxRIS := by
  simp [State.rxRIS, State.writeICR, txCause, causeMask]

@[simp] theorem txRIS_setTxRIS (s : State) : s.setTxRIS.txRIS = true := by simp [State.txRIS, State.setTxRIS, txCause]

@[simp] theorem rxRIS_setTxRIS (s : State) : s.setTxRIS.rxRIS = s.rxRIS := by
  simp [State.rxRIS, State.setTxRIS, txCause]

@[simp] theorem txRIS_setRxRIS (s : State) : s.setRxRIS.txRIS = s.txRIS := by
  simp [State.txRIS, State.setRxRIS, rxCause]

theorem txRIS_congr {s u : State} (h : u.uartRIS = s.uartRIS) : u.txRIS = s.txRIS := by simp only [State.txRIS, h]

theorem txTokens_congr {s u : State} (hr : u.uartRIS = s.uartRIS) (ho : u.owed = s.owed) : u.txTokens = s.txTokens := by
  simp only [State.txTokens, txRIS_congr hr, ho]

theorem txTokens_pending {s : State} (h : s.txRIS = true) : s.txTokens = s.owed + 1 := by simp [State.txTokens, h]

theorem txTokens_clear {s : State} (h : s.txRIS = false) : s.txTokens = s.owed := by simp [State.txTokens, h]

/-! ### The premises -/

/-- R171's premises on the schedule, the parameters, the program and the trigger level. -/
def State.Premises (level : Nat) (s : State) : Prop :=
  s.onlyAgents = true ∧ s.rxQuiet = true ∧ s.params.txEventMode = .owed ∧ noEmptyMessage true s.prog = true ∧
    (∃ n, s.txTrig = some n ∧ n ≤ level) ∧ 2 ≤ level ∧ level < 16

theorem writer_premises {level : Nat} {s : State} (I : s.SingleWriterInv level) : s.Premises level :=
  ⟨I.agents, I.quiet, I.mode, I.program, I.trigger, I.level_low, I.level_high⟩

theorem effect_turns {s s' : State} {i : Instr} (e : Effect s i s') : s'.turns = s.turns := by
  cases e <;> simp [enableLine]

/-- But for a register write on the bus, only receive traffic touches the receive cause. -/
theorem effect_rxRIS {s s' : State} {i : Instr} (e : Effect s i s') (hr : i.format ≠ .regw) :
    s'.rxRIS = s.rxRIS ∨ s.params.rxTraffic = true := by
  cases e
  case rxEvent h => exact .inr h
  case skip => exact .inl (rxRIS_ack s)
  case send => exact .inl (by simpa [State.rxRIS] using rxRIS_ack s)
  case retire => exact .inl (rxRIS_ack s)
  case txEvent => exact .inl (rxRIS_setTxRIS s)
  case icrTx => exact absurd rfl hr
  all_goals exact .inl (by simp [State.rxRIS, enableLine])

/-- But for a register write on the bus, only I1 writes the trigger level, and makes it 2. -/
theorem effect_txTrig {s s' : State} {i : Instr} (e : Effect s i s') (hr : i.format ≠ .regw) :
    s'.txTrig = s.txTrig ∨ s'.txTrig = some 2 := by
  cases e
  case initIfls => exact .inr (show triggerLevel (iflsValue.extractLsb' 0 3) = some 2 by decide)
  case iflsWrite => exact absurd rfl hr
  all_goals exact .inl (by simp [State.txTrig, enableLine])

theorem effect_keeps_premises {level : Nat} {s s' : State} {i : Instr} (e : Effect s i s') (hr : i.format ≠ .regw)
    (P : s.Premises level) : s'.Premises level := by
  obtain ⟨agents, quiet, mode, program, ⟨n, hn, hle⟩, low, high⟩ := P
  obtain ⟨hpar, hprog, -⟩ := effect_launchKept e
  refine ⟨?_, ?_, hpar ▸ mode, hprog ▸ program, ?_, low, high⟩
  · simpa only [State.onlyAgents, effect_turns e] using agents
  · simp only [State.rxQuiet, hpar, Bool.or_eq_true, Bool.and_eq_true, Bool.not_eq_true'] at quiet ⊢
    refine quiet.imp_right fun ⟨hno, hrx⟩ => ⟨hno, ?_⟩
    rcases effect_rxRIS e hr with h | h
    · exact h.trans hrx
    · exact absurd h (by simp [hno])
  · rcases effect_txTrig e hr with h | h
    · exact ⟨n, h.trans hn, hle⟩
    · exact ⟨2, h, low⟩

/-- No accepted command carries an empty message. -/
theorem storedPart_ne_nil_of_accepts {s : State} {i : Instr} {m : List Byte} (hp : noEmptyMessage true s.prog = true)
    (h : s.accepts i = true) (hm : i.message = some m) : storedPart true m ≠ [] := by
  have hcmd : commandAt s.prog s.pcmd = .ok i := of_decide_eq_true (Bool.and_eq_true_iff.1 h).2
  have := List.all_eq_true.1 hp i (List.mem_of_getElem? (commandAt_eq_ok.1 hcmd))
  simpa [hm] using this

/-! ### Who may write UARTDR -/

section Owner

variable {level : Nat} {s : State}

theorem producerHolds_of_locked (I : s.BufferInv) (hl : s.locked = true) : s.producerHolds = true := by
  have : s.loading = true := I.lock_span ▸ hl
  simp [State.producerHolds, State.armed, this]

/-- While the Producer holds the right, no TX event is owed or pending. -/
theorem no_token_of_producerHolds (I : s.SingleWriterInv level) (h : s.producerHolds = true) :
    s.owed = 0 ∧ s.txRIS = false := by
  have htok : s.txTokens = 0 := by simp [I.tokens, State.inDrain, h]
  cases hx : s.txRIS
  · exact ⟨txTokens_clear hx ▸ htok, rfl⟩
  · exact absurd (txTokens_pending hx ▸ htok) (by omega)

/-- With the receive side quiet, a dispatch has the transmit cause behind it. -/
theorem txRIS_of_dispatch (I : s.SingleWriterInv level) (hd : s.dispatchEnabled = true) : s.txRIS = true := by
  have quiet := I.quiet
  simp only [State.dispatchEnabled, State.uartMIS, BitVec.getLsbD_and, Bool.and_eq_true, Bool.or_eq_true] at hd
  simp only [State.rxQuiet, State.rxRIS, Bool.or_eq_true, Bool.and_eq_true, Bool.not_eq_true'] at quiet
  rcases hd with ⟨-, ⟨htx, -⟩ | ⟨hinv, hrx, -⟩⟩
  · exact htx
  · rcases quiet with h | ⟨-, h⟩
    · exact absurd hinv (Bool.eq_false_iff.1 h)
    · exact absurd hrx (Bool.eq_false_iff.1 h)

/-- A dispatched Drain holds the right to write UARTDR, and is owed nothing more. -/
theorem drain_owns (I : s.SingleWriterInv level) (hd : s.dispatchEnabled = true) :
    s.inDrain = true ∧ s.owed = 0 ∧ s.txTokens = 1 := by
  have htok := I.tokens
  have hp := txTokens_pending (txRIS_of_dispatch I hd)
  cases hdr : s.inDrain <;> simp only [hdr, Bool.false_eq_true, if_true, if_false] at htok
  · omega
  · exact ⟨rfl, by omega, htok⟩

theorem not_holds_of_dispatch (I : s.SingleWriterInv level) (hd : s.dispatchEnabled = true) :
    s.producerHolds = false := by
  simpa using (Bool.and_eq_true_iff.1 (drain_owns I hd).1).1

theorem first_ne_of_dispatch (I : s.SingleWriterInv level) (hd : s.dispatchEnabled = true) : s.byteAt 0 ≠ sentinel := by
  simpa using (Bool.and_eq_true_iff.1 (drain_owns I hd).1).2

/-- SKIP is never taken: a held lock is the Producer's. -/
theorem not_locked_of_dispatch (I : s.SingleWriterInv level) (hd : s.dispatchEnabled = true) : s.locked = false := by
  refine Bool.eq_false_iff.2 fun hl => ?_
  simpa [not_holds_of_dispatch I hd] using producerHolds_of_locked I.window.buffer hl

/-- Where no event is owed the FIFO has room. -/
theorem room_of_owed (I : s.SingleWriterInv level) (h : s.owed = 0) : s.txFifo.length < txFifoDepth := by
  have hl := I.fifo_level
  have hh := I.level_high
  omega

/-- The one token is either owed or pending. -/
theorem token_of_owed (I : s.SingleWriterInv level) (h : 0 < s.owed) : s.owed = 1 ∧ s.txRIS = false := by
  have htok : s.txTokens ≤ 1 := by rw [I.tokens]; split <;> decide
  cases hx : s.txRIS
  · rw [txTokens_clear hx] at htok
    exact ⟨by omega, rfl⟩
  · rw [txTokens_pending hx] at htok
    omega

theorem fifo_le_of_txEventEnabled {trig : Nat} (h : s.txEventEnabled trig = true) : s.txFifo.length ≤ trig :=
  of_decide_eq_true (Bool.and_eq_true_iff.1 h).2

theorem writeDR_room (w : Writer) (v : Word) (h : s.txFifo.length < txFifoDepth) :
    s.writeDR w v = { s with txFifo := s.txFifo ++ [v.extractLsb' 0 8], owed := s.owed + 1 } :=
  if_neg (Nat.ne_of_lt h)

/-- E7b finds room: no event is owed before the kick. -/
theorem writeDR_kick (I : s.SingleWriterInv level) (h : s.atPhase .kickWrite = true) :
    s.writeDR .producer (drValue s.t) = { s with txFifo := s.txFifo ++ [s.t], owed := s.owed + 1 } := by
  have hn : s.producerHolds = true := by simp [State.producerHolds, State.armed, h]
  rw [writeDR_room _ _ (room_of_owed I (no_token_of_producerHolds I hn).1), extract_drValue]

/-- SEND finds room: the dispatched Drain is owed no event. -/
theorem writeDR_send (I : s.SingleWriterInv level) (hd : s.dispatchEnabled = true) (b : Byte) :
    (s.writeICR txCause).writeDR .drain (drValue b) =
      { s.writeICR txCause with txFifo := s.txFifo ++ [b], owed := s.owed + 1 } := by
  have hroom : s.txFifo.length < txFifoDepth := room_of_owed I (drain_owns I hd).2.1
  rw [writeDR_room (s := s.writeICR txCause) _ _ hroom, extract_drValue]
  rfl

end Owner

/-! ### What keeps the invariant -/

/-- The phases at which the Producer holds the right to write UARTDR. -/
abbrev holdingPhases : List Phase := [.lock, .guard, .copy, .term, .cursor, .unlock, .kickRead, .kickWrite]

theorem producerHolds_congr {s u : State} (h : u.ph = s.ph) : u.producerHolds = s.producerHolds := by
  simp only [State.producerHolds, State.armed, State.loading, atPhase_congr h]

theorem producerHolds_at {s : State} {p : Phase} (h : s.atPhase p = true) :
    s.producerHolds = decide (p ∈ holdingPhases) := by
  simp only [State.producerHolds, State.armed, State.loading, atPhase_at h]
  cases p <;> rfl

section Keep

variable {level : Nat} {s u : State}

/-- A move of the phase keeps the invariant, where it leaves the device alone and the right to write UARTDR where it was. -/
theorem writer_move {p : Phase} (q : Phase) (I : s.SingleWriterInv level) (W : u.WindowInv) (P : u.Premises level)
    (hp : s.atPhase p = true) (hq : u.ph = q.code)
    (hdev : u.uartRIS = s.uartRIS ∧ u.owed = s.owed ∧ u.txFifo = s.txFifo)
    (hright : q ∉ holdingPhases ∧ u.byteAt 0 ≠ sentinel ↔ p ∉ holdingPhases ∧ s.byteAt 0 ≠ sentinel :=
      by simp [State.byteAt])
    (hmsg : q ∈ [Phase.wait, .lock, .guard, .copy] → storedPart true u.msg ≠ [] := by simp)
    (hload : q ∈ [Phase.term, .cursor] → u.i ≠ 0 := by simp)
    (hheld : q ∈ [Phase.unlock, .kickRead, .kickWrite] → u.byteAt 0 ≠ sentinel := by simp) :
    u.SingleWriterInv level := by
  obtain ⟨hris, ho, hf⟩ := hdev
  obtain ⟨-, -, -, -, htok, hfifo⟩ := (writer_at ((atPhase_iff _ _).1 hp) I.window).1 I
  refine (writer_at hq W).2 ⟨P, hmsg, hload, hheld, ?_, by rwa [ho, hf]⟩
  rw [txTokens_congr hris ho, htok]
  exact if_congr hright.symm rfl rfl

/-- A step of the device or the Drain keeps it, where it leaves the Producer and the buffer alone and the number of tokens as
it was. -/
theorem writer_device (I : s.SingleWriterInv level) (W : u.WindowInv) (P : u.Premises level) (hbytes : u.bytes = s.bytes)
    (hi : u.i = s.i) (hph : u.ph = s.ph) (hmsg : u.msg = s.msg) (htok : u.txTokens = s.txTokens)
    (hf : u.txFifo.length ≤ level + u.owed) : u.SingleWriterInv level := by
  obtain ⟨agents, quiet, mode, program, trigger, low, high⟩ := P
  have hb := byteAt_congr hbytes
  have hp := atPhase_congr hph
  have hdr : u.inDrain = s.inDrain := by simp only [State.inDrain, producerHolds_congr hph, hb]
  refine ⟨W, agents, quiet, mode, program, trigger, low, high, ?_, ?_, ?_, ?_, hf⟩
  · simpa only [State.messageAhead, hp, hmsg] using I.message
  · simpa only [hp, hi] using I.loaded
  · simpa only [hp, hb] using I.held
  · rw [htok, hdr, I.tokens]

/-- The kick hands the right to write UARTDR to the device: it owes the event of the first byte. -/
theorem writer_kick (q : Phase) (I : s.SingleWriterInv level) (W : u.WindowInv) (P : u.Premises level)
    (hp : s.atPhase .kickWrite = true) (hq : u.ph = q.code) (hqn : q = .ready ∨ q = .wait)
    (hbytes : u.bytes = s.bytes) (hris : u.uartRIS = s.uartRIS) (ho : u.owed = s.owed + 1)
    (hf : u.txFifo.length = s.txFifo.length + 1) (hmsg : q = .wait → storedPart true u.msg ≠ []) :
    u.SingleWriterInv level := by
  obtain ⟨-, -, -, hheld, -, hfifo⟩ := (writer_at ((atPhase_iff _ _).1 hp) I.window).1 I
  obtain ⟨h0, htx⟩ := no_token_of_producerHolds I (by rw [producerHolds_at hp]; rfl)
  have hb : u.byteAt 0 ≠ sentinel := byteAt_congr hbytes 0 ▸ hheld (by decide)
  have hx : u.txRIS = false := (txRIS_congr hris).trans htx
  have htok : u.txTokens = 1 := by rw [txTokens_clear hx, ho, h0]
  have hnot : q ∉ holdingPhases := by rcases hqn with rfl | rfl <;> decide
  refine (writer_at hq W).2
    ⟨P, fun h => hmsg ?_, fun h => ?_, fun h => ?_, htok.trans (if_pos ⟨hnot, hb⟩).symm, by omega⟩
  all_goals rcases hqn with rfl | rfl <;> simp at h ⊢

/-- RETIRE uses the last token up, and leaves nothing to drain. -/
theorem writer_retire (I : s.SingleWriterInv level) (W : u.WindowInv) (P : u.Premises level)
    (hd : s.dispatchEnabled = true) (hi : u.i = s.i) (hph : u.ph = s.ph) (hmsg : u.msg = s.msg)
    (h0 : u.byteAt 0 = sentinel) (htx : u.txRIS = false) (ho : u.owed = s.owed) (hf : u.txFifo = s.txFifo) :
    u.SingleWriterInv level := by
  obtain ⟨agents, quiet, mode, program, trigger, low, high⟩ := P
  obtain ⟨-, hs0, -⟩ := drain_owns I hd
  have hp := atPhase_congr hph
  have hnot := not_holds_of_dispatch I hd
  refine ⟨W, agents, quiet, mode, program, trigger, low, high, ?_, ?_, fun h => ?_, ?_, ?_⟩
  · simpa only [State.messageAhead, hp, hmsg] using I.message
  · simpa only [hp, hi] using I.loaded
  · simp only [State.producerHolds, State.armed, State.loading, Bool.or_eq_false_iff] at hnot
    simp [hp, hnot] at h
  · rw [txTokens_clear htx, ho, hs0]
    simp [State.inDrain, h0]
  · rw [ho, hf]; exact I.fifo_level

end Keep

/-! ### Every operation of an agent -/

/-- The copy of a message that is not empty stores a byte. -/
theorem index_ne_of_copyEnds {s : State} (hs : s.params.copyStopsAtZero = true) (hm : storedPart true s.msg ≠ [])
    (hc : s.copyContinues = false) : s.i ≠ 0 := by
  intro hi
  have h0 : s.i.toNat = 0 := by rw [hi]; rfl
  have := (copyContinues_iff hs (by omega)).2 (h0 ▸ List.length_pos_iff.2 hm)
  simp [hc] at this

/-- `i` is an operation that an agent may run at `s`: no register write on the bus, and a Drain outcome under the dispatch
condition only. -/
def State.AgentMayRun (s : State) (i : Instr) : Prop :=
  i.format ≠ .regw ∧ (i = .drainSkip ∨ i = .drainSend ∨ i = .drainRetire → s.dispatchEnabled = true)

theorem effect_keeps_writer {level : Nat} {s s' : State} {i : Instr} (e : Effect s i s') (ha : s.AgentMayRun i)
    (I : s.SingleWriterInv level) : s'.SingleWriterInv level := by
  obtain ⟨hr, hd⟩ := ha
  have W := effect_keeps_windowInv e I.window
  have P := effect_keeps_premises e hr (writer_premises I)
  have message := I.message
  cases e with
  | waits => exact I
  | initAsync h => exact writer_move .initIfls I W P (Bool.and_eq_true_iff.1 h).1 rfl ⟨rfl, rfl, rfl⟩
  | enqueue m h =>
    exact writer_move .wait I W P (Bool.and_eq_true_iff.1 h).1 rfl ⟨rfl, rfl, rfl⟩
      (hmsg := fun _ => storedPart_ne_nil_of_accepts I.program h rfl)
  | enqueueLine m h =>
    exact writer_move .wait I W P (Bool.and_eq_true_iff.1 h).1 rfl ⟨rfl, rfl, rfl⟩
      (hmsg := fun _ => storedPart_ne_nil_of_accepts I.program h rfl)
  | idleTestPasses h h0 =>
    exact writer_move .lock I W P h rfl ⟨rfl, rfl, rfl⟩ (hright := by simp [h0])
      (hmsg := fun _ => message (by simp [State.messageAhead, h]))
  | idleTestFails h =>
    exact writer_move .wait I W P h rfl ⟨rfl, rfl, rfl⟩ (hmsg := fun _ => message (by simp [State.messageAhead, h]))
  | lock h =>
    exact writer_move .guard I W P h rfl ⟨rfl, rfl, rfl⟩ (hmsg := fun _ => message (by simp [State.messageAhead, h]))
  | guard h =>
    exact writer_move .copy I W P h rfl ⟨rfl, rfl, rfl⟩ (hmsg := fun _ => message (by simp [State.messageAhead, h]))
  | copyByte h =>
    exact writer_move .copy I W P h rfl ⟨rfl, rfl, rfl⟩ (hmsg := fun _ => message (by simp [State.messageAhead, h]))
  | copyEnds h hc =>
    exact writer_move .term I W P h rfl ⟨rfl, rfl, rfl⟩
      (hload := fun _ => index_ne_of_copyEnds I.window.stops (message (by simp [State.messageAhead, h])) hc)
  | term h => exact writer_move .cursor I W P h rfl ⟨rfl, rfl, rfl⟩ (hload := fun _ => I.loaded (by simp [h]))
  | cursor h =>
    exact writer_move .unlock I W P h rfl ⟨rfl, rfl, rfl⟩
      (hheld := fun _ => I.window.first_copied (by simp [h]) (I.loaded (by simp [h])))
  | unlock h => exact writer_move .kickRead I W P h rfl ⟨rfl, rfl, rfl⟩ (hheld := fun _ => I.held (by simp [h]))
  | kickRead h => exact writer_move .kickWrite I W P h rfl ⟨rfl, rfl, rfl⟩ (hheld := fun _ => I.held (by simp [h]))
  | kickReturns h =>
    have hw := writeDR_kick I h
    exact writer_kick .ready I W P h rfl (.inl rfl) (by simp) (by simp) (by simp [hw]) (by simp [hw]) (by simp)
  | kickSecondHalf h =>
    have hw := writeDR_kick I h
    exact writer_kick .wait I W P h rfl (.inr rfl) (by simp) (by simp) (by simp [hw]) (by simp [hw])
      (fun _ => storedPart_crlf.trans_ne (List.cons_ne_nil _ _))
  | initIfls h => exact writer_move .initImsc I W P h rfl ⟨rfl, rfl, rfl⟩
  | initImsc h => exact writer_move .initLine I W P h rfl ⟨rfl, rfl, rfl⟩
  | initLine h => exact writer_move .ready I W P h rfl ⟨rfl, rfl, rfl⟩
  | skip hl => exact absurd hl (by simp [not_locked_of_dispatch I (hd (by simp))])
  | send =>
    obtain ⟨-, h0, htok⟩ := drain_owns I (hd (by simp))
    have hw := writeDR_send I (hd (by simp)) (s.byteAt s.cursor.toNat)
    refine writer_device I W P (by simp) (by simp) (by simp) (by simp) ?_ ?_
    · rw [htok, txTokens_clear ((txRIS_congr (by simp)).trans (txRIS_ack s))]
      simp [hw, h0]
    · have := I.fifo_level
      simp [hw]
      omega
  | retire =>
    exact writer_retire I W P (hd (by simp)) rfl rfl rfl
      (byteAt_setByte_same (s.writeICR txCause) 0 _ I.window.buffer.bytes_wf) (txRIS_ack s) rfl rfl
  | noTrigger ht =>
    obtain ⟨n, hn, -⟩ := I.trigger
    exact absurd (ht.symm.trans hn) (by simp)
  | txEvent ht h =>
    obtain ⟨n, hn, hle⟩ := I.trigger
    cases ht.symm.trans hn
    obtain ⟨h1, hx⟩ := token_of_owed I (owed_pos_of_txEventEnabled I.mode h)
    refine writer_device I W P rfl rfl rfl rfl ?_ ?_
    · rw [txTokens_clear hx]
      refine (txTokens_pending (s := { s.setTxRIS with owed := s.owed - 1 }) (txRIS_setTxRIS s)).trans ?_
      show s.owed - 1 + 1 = s.owed
      rw [h1]
    · exact (fifo_le_of_txEventEnabled h).trans (hle.trans (Nat.le_add_right _ _))
  | shift =>
    refine writer_device I W P rfl rfl rfl rfl rfl (Nat.le_trans ?_ I.fifo_level)
    exact (List.drop_sublist 1 s.txFifo).length_le
  | rxEvent => exact writer_device I W P rfl rfl rfl rfl (by simp [State.txTokens]) I.fifo_level
  | drWrite => exact absurd rfl hr
  | iflsWrite => exact absurd rfl hr
  | imscWrite => exact absurd rfl hr
  | icrTx => exact absurd rfl hr

end Sys2Proof.Machine
end

section
/-! PROOFS. The output is exact (R183; 40_enqueue.md R99; 41_drain.md R107, R110): under R183's premises every operation of
an agent keeps what the commands accepted so far give, byte for byte. -/

namespace Sys2Proof.Machine

open Sys2Proof.Config

/-! ### No overflow -/

/-- Under the single writer's invariant an agent's operation records no fault: both UARTDR writes find room. -/
theorem effect_faults {level : Nat} {s s' : State} {i : Instr} (e : Effect s i s') (ha : s.AgentMayRun i)
    (I : s.SingleWriterInv level) : s'.faults = s.faults := by
  obtain ⟨hr, hd⟩ := ha
  cases e
  case kickReturns h _ => simp [writeDR_kick I h]
  case kickSecondHalf h _ => simp [writeDR_kick I h]
  case send => simp [writeDR_send I (hd (by simp))]
  case drWrite => exact absurd rfl hr
  all_goals simp [enableLine]

/-! ### What the buffer holds of the message -/

theorem loaded_vacuous {s : State}
    (h : ∀ p ∈ [Phase.copy, .term, .cursor, .unlock, .kickRead, .kickWrite], s.atPhase p = false) : s.LoadedInv := by
  constructor <;> simp [h]

/-- Where no copy is under way or loaded, nothing is claimed of the buffer. -/
theorem loaded_outside {s : State} {p : Phase} (hp : s.ph = p.code)
    (hn : p ∉ [Phase.copy, .term, .cursor, .unlock, .kickRead, .kickWrite]) : s.LoadedInv :=
  loaded_vacuous fun q hq => by
    rw [atPhase_of_ph s hp]
    exact decide_eq_false fun he => hn (he ▸ hq)

theorem loaded_of_not_holds {s u : State} (h : s.producerHolds = false) (hph : u.ph = s.ph) : u.LoadedInv := by
  simp only [State.producerHolds, State.armed, State.loading, Bool.or_eq_false_iff] at h
  refine loaded_vacuous fun q hq => (atPhase_congr hph q).trans ?_
  simp only [List.mem_cons, List.not_mem_nil, or_false] at hq
  rcases hq with rfl | rfl | rfl | rfl | rfl | rfl <;> simp only [h]

section Load

variable {s : State}

/-- E4a, copying, stores the stored part's next byte. -/
theorem loaded_copyByte (W : s.WindowInv) (h : s.atPhase .copy = true) (hc : s.copyContinues = true) (L : s.LoadedInv) :
    { (s.setByte s.i.toNat (s.msg.getD s.i.toNat 0)).setPh .copy with i := s.i + 1 }.LoadedInv := by
  obtain ⟨hle, -, hst, -⟩ := (loaded_at ((atPhase_iff _ _).1 h)).1 L
  have hlt := (copyContinues_iff W.stops (hle rfl)).1 hc
  obtain ⟨-, hi1, -⟩ := copy_bound hc
  refine (loaded_at (p := .copy) rfl).2 ⟨fun _ => hi1.trans_le hlt, by simp, fun _ k hk => ?_, by simp, by simp⟩
  have hk : k < s.i.toNat + 1 := hi1 ▸ hk
  show (storedPart true s.msg)[k]? = some ((s.setByte s.i.toNat (s.msg.getD s.i.toNat 0)).byteAt k)
  rw [byteAt_setByte _ _ _ _ W.buffer.bytes_wf]
  split
  · next he => rw [he]; exact getD_eq_storedPart hlt
  · exact hst (by decide) k (by omega)

/-- E4a leaves the loop at the stored part's end. -/
theorem loaded_copyEnds (W : s.WindowInv) (h : s.atPhase .copy = true) (hc : s.copyContinues = false) (L : s.LoadedInv) :
    (s.setPh .term).LoadedInv := by
  obtain ⟨hle, -, hst, -⟩ := (loaded_at ((atPhase_iff _ _).1 h)).1 L
  refine (loaded_at (p := .term) rfl).2 ⟨by simp, fun _ => ?_, fun _ => hst (by decide), by simp, by simp⟩
  refine Nat.le_antisymm (hle rfl) (Nat.le_of_not_lt fun hlt => ?_)
  simp [(copyContinues_iff W.stops (hle rfl)).2 hlt] at hc

theorem loaded_term (W : s.WindowInv) (h : s.atPhase .term = true) (L : s.LoadedInv) :
    ((s.setByte s.i.toNat sentinel).setPh .cursor).LoadedInv := by
  obtain ⟨-, hall, hst, -⟩ := (loaded_at ((atPhase_iff _ _).1 h)).1 L
  refine (loaded_at (p := .cursor) rfl).2 ⟨by simp, fun _ => hall (by decide), fun _ k hk => ?_, by simp, by simp⟩
  have hk : k < s.i.toNat := hk
  rw [byteAt_setPh, byteAt_setByte_other _ _ _ _ W.buffer.bytes_wf (Nat.ne_of_lt hk)]
  exact hst (by decide) k hk

/-- E5: the whole stored part stands, with E4b's sentinel behind it. -/
theorem loaded_cursor (W : s.WindowInv) (h : s.atPhase .cursor = true) (L : s.LoadedInv) :
    { s.setPh .unlock with cursor := 1 }.LoadedInv := by
  obtain ⟨-, hall, hst, -⟩ := (loaded_at ((atPhase_iff _ _).1 h)).1 L
  have hlen := hall (by decide)
  refine (loaded_at (p := .unlock) rfl).2
    ⟨by simp, by simp, by simp, fun _ => ⟨rfl, fun k hk => hst (by decide) k (hlen ▸ hk), ?_⟩, by simp⟩
  exact hlen ▸ W.buffer.terminated h

end Load

theorem effect_keeps_loaded {level : Nat} {s s' : State} {i : Instr} (e : Effect s i s') (ha : s.AgentMayRun i)
    (I : s.SingleWriterInv level) (L : s.LoadedInv) : s'.LoadedInv := by
  have W := I.window
  cases e with
  | waits => exact L
  | initAsync => exact loaded_outside (p := .initIfls) rfl (by decide)
  | enqueue => exact loaded_outside (p := .wait) rfl (by decide)
  | enqueueLine => exact loaded_outside (p := .wait) rfl (by decide)
  | idleTestPasses => exact loaded_outside (p := .lock) rfl (by decide)
  | idleTestFails => exact loaded_outside (p := .wait) rfl (by decide)
  | lock => exact loaded_outside (p := .guard) rfl (by decide)
  | guard =>
    exact (loaded_at (p := .copy) rfl).2
      ⟨fun _ => Nat.zero_le _, by simp, fun _ k hk => absurd hk (Nat.not_lt_zero k), by simp, by simp⟩
  | copyByte h hc => exact loaded_copyByte W h hc L
  | copyEnds h hc => exact loaded_copyEnds W h hc L
  | term h => exact loaded_term W h L
  | cursor h => exact loaded_cursor W h L
  | unlock h =>
    obtain ⟨-, -, -, hready, -⟩ := (loaded_at ((atPhase_iff _ _).1 h)).1 L
    exact (loaded_at (p := .kickRead) rfl).2 ⟨by simp, by simp, by simp, fun _ => hready (by decide), by simp⟩
  | kickRead h =>
    obtain ⟨-, -, -, hready, -⟩ := (loaded_at ((atPhase_iff _ _).1 h)).1 L
    exact (loaded_at (p := .kickWrite) rfl).2 ⟨by simp, by simp, by simp, fun _ => hready (by decide), fun _ => rfl⟩
  | kickReturns => exact loaded_outside (p := .ready) rfl (by decide)
  | kickSecondHalf => exact loaded_outside (p := .wait) rfl (by decide)
  | initIfls => exact loaded_outside (p := .initImsc) rfl (by decide)
  | initImsc => exact loaded_outside (p := .initLine) rfl (by decide)
  | initLine => exact loaded_outside (p := .ready) rfl (by decide)
  | skip => exact loaded_congr (s := s) rfl rfl rfl rfl rfl rfl L
  | send => exact loaded_of_not_holds (not_holds_of_dispatch I (ha.2 (by simp))) (by simp)
  | retire => exact loaded_of_not_holds (not_holds_of_dispatch I (ha.2 (by simp))) rfl
  | noTrigger => exact loaded_congr (s := s) rfl rfl rfl rfl rfl rfl L
  | txEvent => exact loaded_congr (s := s) rfl rfl rfl rfl rfl rfl L
  | shift => exact loaded_congr (s := s) rfl rfl rfl rfl rfl rfl L
  | rxEvent => exact loaded_congr (s := s) rfl rfl rfl rfl rfl rfl L
  | drWrite => exact absurd rfl ha.1
  | iflsWrite => exact absurd rfl ha.1
  | imscWrite => exact absurd rfl ha.1
  | icrTx => exact absurd rfl ha.1

/-! ### What the Drain has still to send -/

/-- The cells from offset `k` up to the sentinel. -/
def State.cellsFrom (s : State) (k : Nat) : List Byte :=
  (((List.range capacity).drop k).map s.byteAt).takeWhile (· != sentinel)

section Cells

variable {s : State} {k : Nat}

theorem bufferRest_eq (h : s.byteAt 0 ≠ sentinel) : s.bufferRest = s.cellsFrom s.cursor.toNat := if_neg h

theorem cellsFrom_cons (hk : k < capacity) (h : s.byteAt k ≠ sentinel) :
    s.cellsFrom k = s.byteAt k :: s.cellsFrom (k + 1) := by
  rw [State.cellsFrom, List.drop_eq_getElem_cons (by simpa using hk), List.map_cons, List.getElem_range]
  exact List.takeWhile_cons_of_pos (by simpa using h)

theorem cellsFrom_sentinel (hk : k < capacity) (h : s.byteAt k = sentinel) : s.cellsFrom k = [] := by
  rw [State.cellsFrom, List.drop_eq_getElem_cons (by simpa using hk), List.map_cons, List.getElem_range]
  exact List.takeWhile_cons_of_neg (by simpa using h)

theorem bufferRest_sentinel (hc : s.cursor.toNat < capacity) (h : s.byteAt s.cursor.toNat = sentinel) :
    s.bufferRest = [] := by
  by_cases h0 : s.byteAt 0 = sentinel
  · exact if_pos h0
  · rw [bufferRest_eq h0, cellsFrom_sentinel hc h]

/-- Bytes that stand in the cells from `k`, with the sentinel behind them, are what the Drain sends from there. -/
theorem cellsFrom_stored {bs : List Byte} (hlen : k + bs.length < capacity) (hne : ∀ b ∈ bs, b ≠ sentinel)
    (hcell : ∀ j, j < bs.length → bs[j]? = some (s.byteAt (k + j))) (hend : s.byteAt (k + bs.length) = sentinel) :
    s.cellsFrom k = bs := by
  induction bs generalizing k with
  | nil => exact cellsFrom_sentinel hlen hend
  | cons b bs ih =>
    have hb : b = s.byteAt k := by simpa using hcell 0 (by simp)
    rw [List.length_cons] at hlen hend
    rw [cellsFrom_cons (by omega) (hb ▸ hne b (by simp)), ← hb]
    congr 1
    refine ih (by omega) (fun c hc => hne c (by simp [hc])) (fun j hj => ?_) ?_
    · have := hcell (j + 1) (by simpa using hj)
      rwa [List.getElem?_cons_succ, Nat.add_comm j 1, ← Nat.add_assoc] at this
    · rw [Nat.add_assoc, Nat.add_comm 1]
      exact hend

end Cells

/-- At the kick the buffer holds the stored part: its first byte, and the rest of it for the Drain. -/
theorem storedPart_at_kick {s : State} (L : s.LoadedInv) (h : s.atPhase .kickWrite = true)
    (h0 : s.byteAt 0 ≠ sentinel) : storedPart true s.msg = s.t :: s.bufferRest := by
  obtain ⟨-, -, -, hready, hlatch⟩ := (loaded_at ((atPhase_iff _ _).1 h)).1 L
  obtain ⟨hcur, hcell, hend⟩ := hready (by decide)
  have hlen : 0 + (storedPart true s.msg).length < capacity := by
    have := (length_storedPart_le s.msg).1
    simp only [capacity]
    omega
  have hall : s.cellsFrom 0 = storedPart true s.msg :=
    cellsFrom_stored hlen (fun _ => ne_sentinel_of_mem_storedPart) (fun j hj => by simpa using hcell j hj)
      (by simpa using hend)
  rw [← hall, cellsFrom_cons (by decide) h0, hlatch rfl, bufferRest_eq h0, hcur]
  rfl

/-! ### What is still to be written to UARTDR -/

theorem messageRest_congr {s u : State} (hm : u.msg = s.msg) (ht : u.tail = s.tail) (hp : u.params = s.params) :
    u.messageRest = s.messageRest := by
  simp only [State.messageRest, hm, ht, hp]

theorem undelivered_of_not_holds {s : State} (h : s.producerHolds = false) :
    s.undelivered = s.bufferRest ++ if s.atPhase .wait then s.messageRest else [] := by
  have h : (s.atPhase .lock || s.armed) = false := h
  simp only [State.undelivered, h, Bool.false_eq_true, if_false]
  split <;> simp

theorem undelivered_holding {s : State} {p : Phase} (h : s.ph = p.code) (hp : p ∈ holdingPhases) :
    s.undelivered = s.messageRest := by
  rw [undelivered_at h, if_neg (fun he => absurd (he ▸ hp) (by decide)), if_pos hp]

theorem undelivered_wait {s : State} (h : s.ph = Phase.wait.code) : s.undelivered = s.bufferRest ++ s.messageRest := by
  rw [undelivered_at h, if_pos rfl]

theorem undelivered_free {s : State} {p : Phase} (h : s.ph = p.code)
    (hp : p ∈ [Phase.ready, .initIfls, .initImsc, .initLine]) : s.undelivered = s.bufferRest := by
  rw [undelivered_at h, if_neg (fun he => absurd (he ▸ hp) (by decide)), if_neg (by revert hp; cases p <;> decide)]

theorem undelivered_congr {s u : State} (hbytes : u.bytes = s.bytes) (hcur : u.cursor = s.cursor) (hph : u.ph = s.ph)
    (hm : u.msg = s.msg) (ht : u.tail = s.tail) (hp : u.params = s.params) : u.undelivered = s.undelivered := by
  have harmed : u.armed = s.armed := by simp only [State.armed, State.loading, atPhase_congr hph]
  simp only [State.undelivered, harmed, atPhase_congr hph, rest_congr hbytes hcur, messageRest_congr hm ht hp]

/-- What has been written to UARTDR, and what the accepted commands have still to write there. -/
def State.output (s : State) : List Byte := s.wire ++ s.txFifo ++ s.undelivered

section Output

variable {s u : State}

theorem output_congr (hw : u.wire = s.wire) (hf : u.txFifo = s.txFifo) (hu : u.undelivered = s.undelivered) :
    u.output = s.output := by
  simp only [State.output, hw, hf, hu]

/-- Among the phases at which the Producer holds the right to write UARTDR, a step that writes nothing moves nothing. -/
theorem output_holding {p : Phase} (q : Phase) (hp : s.atPhase p = true) (hq : u.ph = q.code)
    (hpq : p ∈ holdingPhases ∧ q ∈ holdingPhases) (hw : u.wire = s.wire) (hf : u.txFifo = s.txFifo)
    (hm : u.msg = s.msg) (ht : u.tail = s.tail) (hpar : u.params = s.params) : u.output = s.output :=
  output_congr hw hf <| by
    rw [undelivered_holding hq hpq.2, undelivered_holding ((atPhase_iff _ _).1 hp) hpq.1, messageRest_congr hm ht hpar]

/-- Between commands, nothing but the buffer is still to be sent. -/
theorem output_free {p : Phase} (q : Phase) (hp : s.atPhase p = true) (hq : u.ph = q.code)
    (hpq : p ∈ [Phase.ready, .initIfls, .initImsc, .initLine] ∧ q ∈ [Phase.ready, .initIfls, .initImsc, .initLine])
    (hw : u.wire = s.wire) (hf : u.txFifo = s.txFifo) (hb : u.bytes = s.bytes) (hc : u.cursor = s.cursor) :
    u.output = s.output :=
  output_congr hw hf <| by
    rw [undelivered_free hq hpq.2, undelivered_free ((atPhase_iff _ _).1 hp) hpq.1, rest_congr hb hc]

/-- An accepted message comes to be owed behind what the buffer still holds. -/
theorem output_accept {m : List Byte} (hp : s.atPhase .ready = true) (hq : u.ph = Phase.wait.code) (hw : u.wire = s.wire)
    (hf : u.txFifo = s.txFifo) (hb : u.bytes = s.bytes) (hc : u.cursor = s.cursor) (hm : u.messageRest = m) :
    u.output = s.output ++ m := by
  rw [State.output, State.output, undelivered_wait hq, undelivered_free ((atPhase_iff _ _).1 hp) (by decide),
    rest_congr hb hc, hw, hf, hm]
  simp only [List.append_assoc]

/-- The kick writes the message's first byte, the buffer holds the rest, and a second half stays owed. -/
theorem output_kick (L : s.LoadedInv) (stops : s.params.copyStopsAtZero = true) (h : s.atPhase .kickWrite = true)
    (h0 : s.byteAt 0 ≠ sentinel) (hw : u.wire = s.wire) (hf : u.txFifo = s.txFifo ++ [s.t])
    (hu : u.undelivered = s.bufferRest ++ if s.tail then crlf else []) : u.output = s.output := by
  rw [State.output, State.output, undelivered_holding ((atPhase_iff _ _).1 h) (by decide), State.messageRest, stops,
    storedPart_at_kick L h h0, hu, hw, hf]
  simp only [List.append_assoc, List.cons_append, List.nil_append]

/-- SEND moves the byte at `cursor` from the buffer to the FIFO. -/
theorem output_send (hn : s.producerHolds = false) (h0 : s.byteAt 0 ≠ sentinel) (hc : s.cursor.toNat < capacity)
    (hb : s.byteAt s.cursor.toNat ≠ sentinel) (hw : u.wire = s.wire)
    (hf : u.txFifo = s.txFifo ++ [s.byteAt s.cursor.toNat]) (hbytes : u.bytes = s.bytes)
    (hcur : u.cursor = s.cursor + 1) (hph : u.ph = s.ph) (hm : u.messageRest = s.messageRest) :
    u.output = s.output := by
  have hbyte : u.byteAt = s.byteAt := funext (byteAt_congr hbytes)
  have hrest : s.bufferRest = s.byteAt s.cursor.toNat :: u.bufferRest := by
    rw [bufferRest_eq h0, cellsFrom_cons hc hb, bufferRest_eq (hbyte ▸ h0), hcur, toNat_cursor_succ hc, State.cellsFrom,
      State.cellsFrom, hbyte]
  rw [State.output, State.output, undelivered_of_not_holds hn, undelivered_of_not_holds (producerHolds_congr hph ▸ hn),
    atPhase_congr hph, hrest, hm, hw, hf]
  simp only [List.append_assoc, List.cons_append, List.nil_append]

/-- RETIRE finds nothing in the buffer to send, and leaves nothing. -/
theorem output_retire (hn : s.producerHolds = false) (hc : s.cursor.toNat < capacity)
    (hb : s.byteAt s.cursor.toNat = sentinel) (h0 : u.byteAt 0 = sentinel) (hw : u.wire = s.wire)
    (hf : u.txFifo = s.txFifo) (hph : u.ph = s.ph) (hm : u.messageRest = s.messageRest) : u.output = s.output :=
  output_congr hw hf <| by
    rw [undelivered_of_not_holds hn, undelivered_of_not_holds (producerHolds_congr hph ▸ hn), atPhase_congr hph, hm,
      bufferRest_sentinel hc hb, State.bufferRest, if_pos h0]

/-- SHIFT moves a byte from the FIFO to the wire. -/
theorem output_shift (hw : u.wire = s.wire ++ s.txFifo.take 1) (hf : u.txFifo = s.txFifo.drop 1)
    (hu : u.undelivered = s.undelivered) : u.output = s.output := by
  rw [State.output, State.output, hw, hf, hu, List.append_assoc s.wire, List.take_append_drop]

end Output

theorem effect_output {level : Nat} {s s' : State} {i : Instr} (e : Effect s i s') (ha : s.AgentMayRun i)
    (I : s.SingleWriterInv level) (L : s.LoadedInv) :
    (s'.pcmd = s.pcmd ∧ s'.output = s.output) ∨
      (s.accepts i = true ∧ s'.pcmd = s.pcmd + 1 ∧ s'.output = s.output ++ payload true i) := by
  have stops := I.window.stops
  cases e with
  | waits => exact .inl ⟨rfl, rfl⟩
  | initAsync h =>
    refine .inr ⟨h, rfl, ?_⟩
    rw [payload, List.append_nil]
    exact output_free .initIfls (Bool.and_eq_true_iff.1 h).1 rfl (by decide) rfl rfl rfl rfl
  | enqueue m h =>
    refine .inr ⟨h, rfl, output_accept (Bool.and_eq_true_iff.1 h).1 rfl rfl rfl rfl rfl ?_⟩
    simp [State.messageRest, stops, payload]
  | enqueueLine m h =>
    refine .inr ⟨h, rfl, output_accept (Bool.and_eq_true_iff.1 h).1 rfl rfl rfl rfl rfl ?_⟩
    simp [State.messageRest, stops, payload]
  | idleTestPasses h h0 =>
    refine .inl ⟨rfl, output_congr rfl rfl ?_⟩
    rw [undelivered_holding (p := .lock) rfl (by decide), undelivered_wait ((atPhase_iff _ _).1 h), State.bufferRest,
      if_pos h0]
    rfl
  | idleTestFails h =>
    exact .inl ⟨rfl, output_congr rfl rfl (undelivered_congr rfl rfl ((atPhase_iff _ _).1 h).symm rfl rfl rfl)⟩
  | lock h => exact .inl ⟨rfl, output_holding .guard h rfl (by decide) rfl rfl rfl rfl rfl⟩
  | guard h => exact .inl ⟨rfl, output_holding .copy h rfl (by decide) rfl rfl rfl rfl rfl⟩
  | copyByte h => exact .inl ⟨rfl, output_holding .copy h rfl (by decide) rfl rfl rfl rfl rfl⟩
  | copyEnds h => exact .inl ⟨rfl, output_holding .term h rfl (by decide) rfl rfl rfl rfl rfl⟩
  | term h => exact .inl ⟨rfl, output_holding .cursor h rfl (by decide) rfl rfl rfl rfl rfl⟩
  | cursor h => exact .inl ⟨rfl, output_holding .unlock h rfl (by decide) rfl rfl rfl rfl rfl⟩
  | unlock h => exact .inl ⟨rfl, output_holding .kickRead h rfl (by decide) rfl rfl rfl rfl rfl⟩
  | kickRead h => exact .inl ⟨rfl, output_holding .kickWrite h rfl (by decide) rfl rfl rfl rfl rfl⟩
  | kickReturns h htail =>
    refine .inl ⟨by simp, output_kick L stops h (I.held (by simp [h])) (by simp) (by simp [writeDR_kick I h]) ?_⟩
    rw [undelivered_free (p := .ready) rfl (by decide), rest_congr (s := s) (by simp) (by simp), htail]
    exact (List.append_nil _).symm
  | kickSecondHalf h htail =>
    refine .inl ⟨by simp, output_kick L stops h (I.held (by simp [h])) (by simp) (by simp [writeDR_kick I h]) ?_⟩
    rw [undelivered_wait rfl, rest_congr (s := s) (by simp) (by simp), htail]
    simp [State.messageRest, stops, storedPart_crlf]
  | initIfls h => exact .inl ⟨rfl, output_free .initImsc h rfl (by decide) rfl rfl rfl rfl⟩
  | initImsc h => exact .inl ⟨rfl, output_free .initLine h rfl (by decide) rfl rfl rfl rfl⟩
  | initLine h => exact .inl ⟨rfl, output_free .ready h rfl (by decide) rfl rfl rfl rfl⟩
  | skip => exact .inl ⟨rfl, output_congr rfl rfl (undelivered_congr (s := s) rfl rfl rfl rfl rfl rfl)⟩
  | send _ hc hb =>
    have hd := ha.2 (by simp)
    exact .inl ⟨by simp, output_send (not_holds_of_dispatch I hd) (first_ne_of_dispatch I hd) hc hb (by simp)
      (by simp [writeDR_send I hd]) (by simp) rfl (by simp) (messageRest_congr (by simp) (by simp) (by simp))⟩
  | retire _ hc =>
    have hlt := I.window.buffer.cursor_bound
    exact .inl ⟨rfl, output_retire (not_holds_of_dispatch I (ha.2 (by simp))) hlt (hc hlt)
      (byteAt_setByte_same (s.writeICR txCause) 0 _ I.window.buffer.bytes_wf) rfl rfl rfl rfl⟩
  | noTrigger => exact .inl ⟨rfl, output_congr rfl rfl (undelivered_congr (s := s) rfl rfl rfl rfl rfl rfl)⟩
  | txEvent => exact .inl ⟨rfl, output_congr rfl rfl (undelivered_congr (s := s) rfl rfl rfl rfl rfl rfl)⟩
  | shift => exact .inl ⟨rfl, output_shift rfl rfl (undelivered_congr (s := s) rfl rfl rfl rfl rfl rfl)⟩
  | rxEvent => exact .inl ⟨rfl, output_congr rfl rfl (undelivered_congr (s := s) rfl rfl rfl rfl rfl rfl)⟩
  | drWrite => exact absurd rfl ha.1
  | iflsWrite => exact absurd rfl ha.1
  | imscWrite => exact absurd rfl ha.1
  | icrTx => exact absurd rfl ha.1

/-! ### Every step -/

/-- At a named phase: the Producer is between commands, or arms the interrupt. -/
theorem free_at {s : State} {p : Phase} (h : s.ph = p.code) :
    (s.atPhase .ready || s.atPhase .initIfls || s.atPhase .initImsc || s.atPhase .initLine) =
      decide (p ∈ [Phase.ready, .initIfls, .initImsc, .initLine]) := by
  simp only [atPhase_of_ph s h]
  cases p <;> rfl

/-- Between commands no second half is owed. -/
def State.NoTail (s : State) : Prop :=
  (s.atPhase .ready || s.atPhase .initIfls || s.atPhase .initImsc || s.atPhase .initLine) = true → s.tail = false

theorem noTail_elsewhere {s : State} (p : Phase) (hp : s.ph = p.code)
    (hn : p ∉ [Phase.ready, .initIfls, .initImsc, .initLine]) : s.NoTail :=
  fun h => absurd (of_decide_eq_true (free_at hp ▸ h)) hn

theorem noTail_congr {s u : State} (hph : u.ph = s.ph) (ht : u.tail = s.tail) (I : s.NoTail) : u.NoTail :=
  fun h => ht.trans (I (by simpa only [atPhase_congr hph] using h))

/-- The kick that returns has written CR LF already or owes none, and a command begins an enqueue or leaves `tail`. -/
theorem effect_noTail {s s' : State} {i : Instr} (e : Effect s i s') (I : s.NoTail) : s'.NoTail := by
  cases e
  case initAsync h => exact fun _ => I (by simp [(Bool.and_eq_true_iff.1 h).1])
  case enqueue => exact noTail_elsewhere .wait rfl (by decide)
  case enqueueLine => exact noTail_elsewhere .wait rfl (by decide)
  case idleTestPasses => exact noTail_elsewhere .lock rfl (by decide)
  case idleTestFails => exact noTail_elsewhere .wait rfl (by decide)
  case lock => exact noTail_elsewhere .guard rfl (by decide)
  case guard => exact noTail_elsewhere .copy rfl (by decide)
  case copyByte => exact noTail_elsewhere .copy rfl (by decide)
  case copyEnds => exact noTail_elsewhere .term rfl (by decide)
  case term => exact noTail_elsewhere .cursor rfl (by decide)
  case cursor => exact noTail_elsewhere .unlock rfl (by decide)
  case unlock => exact noTail_elsewhere .kickRead rfl (by decide)
  case kickRead => exact noTail_elsewhere .kickWrite rfl (by decide)
  case kickReturns ht => exact fun _ => (writeDR_tail s .producer _).trans ht
  case kickSecondHalf => exact noTail_elsewhere .wait rfl (by decide)
  case initIfls h => exact fun _ => I (by simp [h])
  case initImsc h => exact fun _ => I (by simp [h])
  case initLine h => exact fun _ => I (by simp [h])
  all_goals exact noTail_congr (by simp) (by simp) I

theorem programOutput_succ {stops : Bool} {prog : List Byte} {n : Nat} {i : Instr} (h : commandAt prog n = .ok i) :
    programOutput stops prog (n + 1) = programOutput stops prog n ++ payload stops i := by
  rw [programOutput, programOutput, List.take_add_one, commandAt_eq_ok.1 h]
  simp

theorem effect_keeps_outputInv {level : Nat} {s s' : State} {i : Instr} (e : Effect s i s') (ha : s.AgentMayRun i)
    (I : s.OutputInv level) : s'.OutputInv level := by
  have hprog : s'.prog = s.prog := (effect_launchKept e).2.1
  have phase : (Phase.ofCode s'.ph).isSome = true := by
    rcases effect_ph e with h | ⟨p, h⟩ <;> rw [h]
    · exact I.known_phase
    · rw [ofCode_code, Option.isSome_some]
  have out : s.output = programOutput true s.prog s.pcmd := I.output
  have books : s'.pcmd ≤ (decodeStream s.prog).1.length ∧ s'.output = programOutput true s.prog s'.pcmd := by
    rcases effect_output e ha I.writer I.loaded with ⟨hpcmd, ho⟩ | ⟨hacc, hpcmd, ho⟩ <;> rw [hpcmd]
    · exact ⟨I.accepted, ho.trans out⟩
    · have hcmd : commandAt s.prog s.pcmd = .ok i := of_decide_eq_true (Bool.and_eq_true_iff.1 hacc).2
      exact ⟨(List.getElem?_eq_some_iff.1 (commandAt_eq_ok.1 hcmd)).1, by rw [ho, out, programOutput_succ hcmd]⟩
  rw [← hprog] at books
  exact ⟨effect_keeps_writer e ha I.writer, effect_keeps_loaded e ha I.writer I.loaded, books.1,
    effect_noTail e I.no_tail, phase, books.2⟩

/-- The schedule, the trace and the marks are no part of the invariant, as long as only agents move. -/
theorem outputInv_schedule {level : Nat} {s : State} (I : s.OutputInv level) {turns : List Turn}
    (ht : turns.all Turn.isAgent = true) (tick : Nat) (trace : List Byte) (refusals : List Refusal) :
    { s with turns := turns, tick := tick, trace := trace, refusals := refusals }.OutputInv level := by
  have B := bufferInv_congr (s := s) (u := { s with turns := turns, tick := tick, trace := trace, refusals := refusals })
    rfl rfl rfl rfl rfl I.writer.window.buffer.fifo_bound I.writer.window.buffer
  have W := windowInv_congr (s := s) B rfl rfl rfl rfl rfl I.writer.window
  exact ⟨writer_congr (s := s) W rfl rfl rfl rfl ht rfl rfl rfl rfl rfl (Nat.le_refl _) I.writer,
    loaded_congr (s := s) rfl rfl rfl rfl rfl rfl I.loaded, I.accepted, I.no_tail, I.known_phase, I.output⟩

theorem format_of_phase {i : Instr} {p : Phase} (h : i.phase = some p) : i.format = .ph := by
  cases i <;> simp_all [Instr.phase, Instr.format]

/-- What an agent's turn runs, the agent may run. -/
theorem agentMayRun_of_fetch {s : State} {i : Instr} (ht : s.turn.isAgent = true) (hf : fetch s.turn s = .run i) :
    s.AgentMayRun i := by
  refine ⟨fun hr => ?_, fun hi => (drain_turn hf hi).2⟩
  rcases fetch_run hf with ⟨-, -, hc⟩ | ⟨-, p, hp, -⟩ | ⟨-, -, hd⟩ | ⟨-, rfl, -⟩ | ⟨-, rfl, -⟩ | ⟨-, rfl, -⟩ | ⟨hna, -⟩
  · cases (commandAt_format hc).symm.trans hr
  · cases (format_of_phase hp).symm.trans hr
  · subst hd
    cases ho : s.drainOutcome <;> rw [ho] at hr <;> cases hr
  · cases hr
  · cases hr
  · cases hr
  · simp [ht] at hna

theorem agentMayRun_ran {s : State} {i : Instr} (h : s.AgentMayRun i) : (s.passTurn.record i).AgentMayRun i := by
  simpa [State.AgentMayRun, State.dispatchEnabled, State.uartMIS] using h

theorem outputInv_ran {level : Nat} {s : State} (I : s.OutputInv level) (i : Instr) :
    (s.passTurn.record i).OutputInv level := by
  rw [ran_eq]
  exact outputInv_schedule I (agent_turn I.writer.agents).2 _ _ s.refusals

theorem passTurn_eq (s : State) : s.passTurn = { s with turns := s.passTurn.turns, tick := s.passTurn.tick } := by
  ext <;> simp

theorem outputInv_refused {level : Nat} {s : State} (I : s.OutputInv level) (rs : List Refusal) :
    { s.passTurn with refusals := rs }.OutputInv level := by
  rw [passTurn_eq]
  exact outputInv_schedule I (agent_turn I.writer.agents).2 _ s.trace rs

/-- Only agents move, and the copy index stays inside the buffer: nothing stops the machine. -/
theorem step_goes_on {level : Nat} {s : State} (I : s.OutputInv level) : ∃ s', step s = .next s' := by
  rcases whatStopsTheMachine s with h | ⟨addr, n, v, ht, -⟩ | ⟨-, -, hi, -⟩
  · exact h
  · have := (agent_turn I.writer.agents).1
    rw [ht] at this
    cases this
  · exact absurd I.writer.window.buffer.index_bound (Nat.not_lt_of_le hi)

/-- Settles O57: a turn that runs nothing meets no reserved phase, and every operation of an agent keeps the invariant and
finds room in the FIFO. -/
theorem outputIsExactAtEveryStep : Obligations.OutputIsExactAtEveryStep := by
  intro level s I
  obtain ⟨s', h⟩ := step_goes_on I
  refine ⟨s', h, ?_⟩
  rcases step_cases h with rfl | ⟨r, -, rfl⟩ | ⟨-, hp, -⟩ | ⟨i, hf, e⟩
  · exact ⟨outputInv_refused I s.passTurn.refusals, passTurn_faults s⟩
  · exact ⟨outputInv_refused I _, passTurn_faults s⟩
  · have := I.known_phase
    simp [hp] at this
  · have ha := agentMayRun_ran (agentMayRun_of_fetch (agent_turn I.writer.agents).1 hf)
    have J := outputInv_ran I i
    exact ⟨effect_keeps_outputInv e ha J, (effect_faults e ha J.writer).trans (by simp)⟩

end Sys2Proof.Machine
end

section
/-! PROOFS. The Drain's outcomes standing alone (41_drain.md R102 to R105, R111), and what they do not read (R112). -/

namespace Sys2Proof.Machine

open Sys2Proof.Config

/-! ### The three outcomes -/

/-- ACK clears UARTRIS[5] and nothing else (R102). -/
theorem writeICR_txCause (s : State) : s.writeICR txCause = { s with uartRIS := s.uartRIS &&& 0xFFFFFFDF#32 } := rfl

/-- Settles O28: SKIP is ACK. -/
theorem skipOnlyAcknowledges : Obligations.SkipOnlyAcknowledges := fun s hl =>
  (execDrainSkip_eq s ((drainOutcome_skip s).2 hl)).trans (congrArg _ (writeICR_txCause s))

/-- Settles O29: a UARTDR write of `bytes[cursor]` after ACK, and `cursor` one higher. -/
theorem sendWritesTheCursorByte : Obligations.SendWritesTheCursorByte := by
  intro s hl hc hb
  obtain ⟨hroom, hfull⟩ := writeDR_byte (s.writeICR txCause) .drain (s.byteAt s.cursor.toNat)
  have hframe := writeDR_frame (s.writeICR txCause) .drain (drValue (s.byteAt s.cursor.toNat))
  refine ⟨_, execDrainSend_eq s ((drainOutcome_send s).2 ⟨hl, hc, hb⟩), ?_, toNat_cursor_succ hc, hroom, hfull, ?_⟩
  · rw [writeDR_uartRIS, writeICR_txCause]
  · exact congrArg (fun u : State => { u with uartRIS := s.uartRIS, cursor := s.cursor }) hframe

/-- Settles O30: the sentinel at offset 0 after ACK, and `cursor` there. -/
theorem retireEmptiesTheBuffer : Obligations.RetireEmptiesTheBuffer := by
  intro s hl hend hw
  have ho : s.drainOutcome = .retire :=
    (drainOutcome_retire s).2 ⟨hl, fun ⟨hlt, hb⟩ => hend.elim (Nat.not_le_of_lt hlt) hb⟩
  have hcell : ∀ k, ((s.writeICR txCause).setByte 0 sentinel).byteAt k = if k = 0 then sentinel else s.byteAt k :=
    fun k => byteAt_setByte (s.writeICR txCause) 0 k sentinel hw
  exact ⟨_, execDrainRetire_eq s ho, rfl, rfl, hcell 0, fun k hk => (hcell k).trans (if_neg hk),
    write_keeps_wf (by decide) hw, rfl⟩

/-! ### What an invocation does not read -/

/-- R101's selection reads the Transmit Buffer's fields only. -/
theorem drainOutcome_congr {s u : State} (hb : u.bytes = s.bytes) (hc : u.cursor = s.cursor)
    (hl : u.locked = s.locked) : u.drainOutcome = s.drainOutcome := by
  simp only [State.drainOutcome, byteAt_congr hb, hc, hl]

/-- A UARTDR write reads the FIFO, the owed events and the faults only. -/
theorem writeDR_congr {s u : State} (w : Writer) (v : Word) (hf : u.txFifo = s.txFifo) (ho : u.owed = s.owed)
    (hm : u.faults = s.faults) :
    (u.writeDR w v).txFifo = (s.writeDR w v).txFifo ∧ (u.writeDR w v).owed = (s.writeDR w v).owed ∧
      (u.writeDR w v).faults = (s.writeDR w v).faults := by
  rw [State.writeDR, State.writeDR, hf]
  split
  · exact ⟨hf, ho, by rw [raise_faults, raise_faults, hm]⟩
  · exact ⟨rfl, congrArg (· + 1) ho, hm⟩

/-- Nor does what the selected outcome leaves in the buffer and the device depend on anything else. -/
theorem drained_congr {s u : State} (hb : u.bytes = s.bytes) (hc : u.cursor = s.cursor) (hl : u.locked = s.locked)
    (hf : u.txFifo = s.txFifo) (ho : u.owed = s.owed) (hm : u.faults = s.faults) :
    u.drained.bytes = s.drained.bytes ∧ u.drained.cursor = s.drained.cursor ∧ u.drained.txFifo = s.drained.txFifo ∧
      u.drained.owed = s.drained.owed ∧ u.drained.faults = s.drained.faults := by
  have hsel := drainOutcome_congr hb hc hl
  cases h : s.drainOutcome with
  | skip =>
    rw [drained_skip h, drained_skip (hsel.trans h)]
    exact ⟨hb, hc, hf, ho, hm⟩
  | send =>
    rw [drained_send h, drained_send (hsel.trans h), byteAt_congr hb, hc]
    exact ⟨by simp [hb], rfl, writeDR_congr (s := s.writeICR txCause) .drain _ hf ho hm⟩
  | retire =>
    rw [drained_retire h, drained_retire (hsel.trans h)]
    exact ⟨congrArg (Memory.write · 0 sentinel) hb, rfl, hf, ho, hm⟩

/-- Settles O32. -/
theorem drainDoesNotSeeItsCause : Obligations.DrainDoesNotSeeItsCause := fun s u hb hc hl hf ho hm =>
  ⟨s.drained, u.drained, exec_drainOutcome s, exec_drainOutcome u, drainOutcome_congr hb hc hl,
    drained_congr hb hc hl hf ho hm⟩

end Sys2Proof.Machine
end

section
/-! PROOFS. The window (70_reset_and_hazards.md R167): every step keeps its invariant, and a Drain turn in it RETIREs. -/

namespace Sys2Proof.Machine

open Sys2Proof.Config

/-! ### Every step keeps the invariant -/

/-- The invariant reads the buffer, the copy index, `ph`, the FIFO and the parameters only. -/
theorem windowInv_frame {s u : State} (hb : u.bytes = s.bytes) (hc : u.cursor = s.cursor) (hl : u.locked = s.locked)
    (hi : u.i = s.i) (hp : u.ph = s.ph) (hf : u.txFifo = s.txFifo) (hpar : u.params = s.params) (I : s.WindowInv) :
    u.WindowInv :=
  windowInv_congr (bufferInv_congr hb hc hl hi hp (hf ▸ I.buffer.fifo_bound) I.buffer) hb hc hi hp hpar I

/-- A turn that runs nothing touches none of the invariant's fields, and every operation keeps it. -/
theorem step_keeps_windowInv {s s' : State} (I : s.WindowInv) (h : step s = .next s') : s'.WindowInv := by
  rcases step_marks_or_effect h with ⟨fs, rs, rfl, -⟩ | ⟨i, -, e⟩
  · exact windowInv_frame (by simp) (by simp) (by simp) (by simp) (by simp) (by simp) (by simp) I
  · refine effect_keeps_windowInv e ?_
    exact windowInv_frame (by simp) (by simp) (by simp) (by simp) (by simp) (by simp) (by simp) I

/-! ### In the window -/

/-- At LOCK the buffer is open and empty, and `cursor` is at a sentinel. -/
theorem window_at_lock {s : State} (I : s.WindowInv) (hp : s.ph = Phase.lock.code) :
    s.byteAt 0 = sentinel ∧ s.locked = false ∧ (s.cursor = 0 ∨ (s.cursor = 1 ∧ s.byteAt 1 = sentinel)) := by
  have hlock := (atPhase_iff s .lock).2 hp
  have hl : s.locked = false := unlocked_at I.buffer hlock (by decide)
  have h0 := I.idle_seen hlock
  exact ⟨h0, hl, I.nothing_to_send (atPhase_of_unlocked I.buffer hl).1 h0⟩

/-- So a Drain invocation there RETIREs. -/
theorem drainOutcome_at_lock {s : State} (I : s.WindowInv) (hp : s.ph = Phase.lock.code) : s.drainOutcome = .retire := by
  obtain ⟨h0, hl, hc⟩ := window_at_lock I hp
  refine (drainOutcome_retire s).2 ⟨hl, fun ⟨_, hb⟩ => ?_⟩
  rcases hc with hc | ⟨hc, h1⟩ <;> rw [hc] at hb
  · exact hb h0
  · exact hb h1

/-- Settles O54: the step lemma, and in the window the RETIRE, which touches neither the device nor the Producer. -/
theorem windowIsBenign : Obligations.WindowIsBenign := by
  refine ⟨fun s s' I h => step_keeps_windowInv I h, fun s I hp => ?_⟩
  obtain ⟨h0, hl, hc⟩ := window_at_lock I hp
  refine ⟨h0, hl, hc, fun hu ht hd => ⟨s.drainTurn, step_drain hu ht hd, ?_⟩⟩
  obtain ⟨hbyte, -, hcur, hfifo, howed, -, htrace⟩ := drainTurn_retire (drainOutcome_at_lock I hp) I.buffer.bytes_wf
  obtain ⟨hph, -, -, -, -, -, -, -, hwire, -⟩ := drained_frame (s.passTurn.record s.drainOutcome.instr)
  exact ⟨htrace, hbyte, hcur, hfifo, hwire.trans (by simp), howed, hph.trans (by simp)⟩

end Sys2Proof.Machine
end

section
/-! PROOFS. The buffer's state machine (41_drain.md R108): only E2 and E7b change whether it is Armed, and outside Armed only
the Drain moves it between Idle and Draining. -/

namespace Sys2Proof.Machine

open Sys2Proof.Config

/-! ### Armed -/

/-- The phases of Armed (10_state.md R41). -/
def armedPhases : List Phase := [.guard, .copy, .term, .cursor, .unlock, .kickRead, .kickWrite]

theorem armed_congr {s u : State} (h : u.ph = s.ph) : u.armed = s.armed := by
  simp only [State.armed, State.loading, atPhase_congr h]

theorem armed_at {s : State} {p : Phase} (h : s.ph = p.code) : s.armed = decide (p ∈ armedPhases) := by
  simp only [State.armed, State.loading, atPhase_of_ph s h]
  cases p <;> rfl

/-- A move from one phase to another on the same side of Armed. -/
theorem armed_move {s u : State} {p : Phase} (q : Phase) (hp : s.atPhase p = true) (hq : u.ph = q.code)
    (h : p ∈ armedPhases ↔ q ∈ armedPhases) : u.armed = s.armed := by
  rw [armed_at hq, armed_at ((atPhase_iff s p).1 hp), decide_eq_decide.2 h]

/-- E2 enters Armed and E7b leaves it; no other operation does either, and E7b leaves the buffer as it is. -/
theorem effect_changes_armed {s s' : State} {i : Instr} (e : Effect s i s') (hne : s'.armed ≠ s.armed) :
    (i = .e2Lock ∧ s'.armed = true) ∨
    (i = .e7bKickWrite ∧ s'.armed = false ∧ s'.byteAt 0 = s.byteAt 0 ∧ s'.cursor = s.cursor) := by
  cases e
  case lock => exact .inl ⟨rfl, armed_at (p := .guard) rfl⟩
  case kickReturns => exact .inr ⟨rfl, armed_at (p := .ready) rfl, byteAt_writeDR s _ _ 0, by simp⟩
  case kickSecondHalf => exact .inr ⟨rfl, armed_at (p := .wait) rfl, byteAt_writeDR s _ _ 0, by simp⟩
  case initAsync h => exact absurd (armed_move .initIfls (Bool.and_eq_true_iff.1 h).1 rfl (by decide)) hne
  case enqueue h => exact absurd (armed_move .wait (Bool.and_eq_true_iff.1 h).1 rfl (by decide)) hne
  case enqueueLine h => exact absurd (armed_move .wait (Bool.and_eq_true_iff.1 h).1 rfl (by decide)) hne
  case idleTestPasses h _ => exact absurd (armed_move .lock h rfl (by decide)) hne
  case idleTestFails h _ => exact absurd (armed_move .wait h rfl (by decide)) hne
  case guard h => exact absurd (armed_move .copy h rfl (by decide)) hne
  case copyByte h _ => exact absurd (armed_move .copy h rfl (by decide)) hne
  case copyEnds h _ => exact absurd (armed_move .term h rfl (by decide)) hne
  case term h _ => exact absurd (armed_move .cursor h rfl (by decide)) hne
  case cursor h => exact absurd (armed_move .unlock h rfl (by decide)) hne
  case unlock h => exact absurd (armed_move .kickRead h rfl (by decide)) hne
  case kickRead h => exact absurd (armed_move .kickWrite h rfl (by decide)) hne
  case initIfls h => exact absurd (armed_move .initImsc h rfl (by decide)) hne
  case initImsc h => exact absurd (armed_move .initLine h rfl (by decide)) hne
  case initLine h => exact absurd (armed_move .ready h rfl (by decide)) hne
  all_goals exact absurd (armed_congr (by simp)) hne

theorem step_changes_armed {s s' : State} (h : step s = .next s') (hne : s'.armed ≠ s.armed) :
    (s.turn = .agent .producer ∧ s.ph = Phase.lock.code ∧ s'.armed = true) ∨
    (s.turn = .agent .producer ∧ s.ph = Phase.kickWrite.code ∧ s'.armed = false ∧ s'.byteAt 0 = s.byteAt 0 ∧
      s'.cursor = s.cursor) := by
  rcases step_marks_or_effect h with ⟨fs, rs, rfl, -⟩ | ⟨i, hf, e⟩
  · exact absurd (armed_congr (passTurn_ph s)) hne
  · have hran : (s.passTurn.record i).armed = s.armed := armed_congr (by simp)
    rcases effect_changes_armed e (hran ▸ hne) with ⟨rfl, ha⟩ | ⟨rfl, ha, hb, hc⟩
    · obtain ⟨ht, hp⟩ := producer_turn (p := .lock) hf rfl
      exact .inl ⟨ht, hp, ha⟩
    · obtain ⟨ht, hp⟩ := producer_turn (p := .kickWrite) hf rfl
      exact .inr ⟨ht, hp, ha, by simpa using hb, by simpa using hc⟩

/-! ### Idle and Draining -/

theorem bufferPhase_ne_armed (s : State) : s.bufferPhase ≠ .armed ↔ s.armed = false := by
  rw [Ne, bufferPhase_armed, Bool.not_eq_true]

/-- Outside Armed, only the Drain changes the first byte, to the sentinel (R111). -/
theorem step_changes_first {s s' : State} (hw : Memory.wf s.bytes = true) (h : step s = .next s') (ha : s.armed = false)
    (hne : s'.byteAt 0 ≠ s.byteAt 0) : s.turn = .agent .drain ∧ s'.byteAt 0 = sentinel := by
  obtain ⟨-, ⟨-, ⟨hp, -⟩ | ⟨hp, -⟩ | ⟨hp, -⟩⟩ | ⟨ht, -, -, hb⟩⟩ := offsetsWritten s s' 0 hw h hne
  · exact absurd ((armed_at hp).symm.trans ha) (by decide)
  · exact absurd ((armed_at hp).symm.trans ha) (by decide)
  · exact absurd ((armed_at hp).symm.trans ha) (by decide)
  · exact ⟨ht, hb⟩

/-- Outside Armed, only the Drain changes `cursor` (R106): SEND from a byte that is no sentinel, RETIRE to 0. -/
theorem step_changes_cursor {s s' : State} (h : step s = .next s') (ha : s.armed = false)
    (hne : s'.cursor ≠ s.cursor) : s.turn = .agent .drain ∧ (s.byteAt s.cursor.toNat ≠ sentinel ∨ s'.cursor = 0) := by
  rcases cursorAdvancement s s' h hne with ⟨-, hp, -⟩ | ⟨ht, -, -, hb, -⟩ | ⟨ht, -, -, hc⟩
  · exact absurd ((armed_at hp).symm.trans ha) (by decide)
  · exact ⟨ht, .inl hb⟩
  · exact ⟨ht, .inr hc⟩

/-- Without E2, Idle stays: a SEND needs a byte other than the sentinel, and a RETIRE writes what is there. -/
theorem idle_stays {s s' : State} (hw : Memory.wf s.bytes = true) (h : step s = .next s') (ha : s'.armed = s.armed)
    (hi : s.bufferPhase = .idle) : s'.bufferPhase = .idle := by
  obtain ⟨hn, h0, hc⟩ := (bufferPhase_idle s).1 hi
  have hna := (bufferPhase_ne_armed s).1 hn
  have hb' : s'.byteAt 0 = s.byteAt 0 := by
    by_contra hne
    exact hne ((step_changes_first hw h hna hne).2.trans h0.symm)
  have hc' : s'.cursor = s.cursor := by
    by_contra hne
    rcases (step_changes_cursor h hna hne).2 with hb | hz
    · rw [hc] at hb; exact hb h0
    · exact hne (hz.trans hc.symm)
  exact (bufferPhase_idle s').2 ⟨(bufferPhase_ne_armed s').2 (ha.trans hna), hb' ▸ h0, hc' ▸ hc⟩

/-- Only the Drain takes Draining to Idle: the first byte or `cursor` has changed. -/
theorem drain_of_draining_to_idle {s s' : State} (hw : Memory.wf s.bytes = true) (h : step s = .next s')
    (hd : s.bufferPhase = .draining) (hi : s'.bufferPhase = .idle) : s.turn = .agent .drain := by
  obtain ⟨hn, hni⟩ := (bufferPhase_draining s).1 hd
  obtain ⟨-, h0, hc⟩ := (bufferPhase_idle s').1 hi
  have hna := (bufferPhase_ne_armed s).1 hn
  by_contra ht
  have hb' : s'.byteAt 0 = s.byteAt 0 := by_contra fun hne => ht (step_changes_first hw h hna hne).1
  have hc' : s'.cursor = s.cursor := by_contra fun hne => ht (step_changes_cursor h hna hne).1
  exact hni ((bufferPhase_idle s).2 ⟨hn, hb' ▸ h0, hc' ▸ hc⟩)

/-- A step that neither enters nor leaves Armed leaves Draining, if at all, by the Drain to Idle. -/
theorem draining_stays_or_retires {s s' : State} (hw : Memory.wf s.bytes = true) (h : step s = .next s')
    (ha : s'.armed = s.armed) (hd : s.bufferPhase = .draining) :
    s'.bufferPhase = .draining ∨ (s'.bufferPhase = .idle ∧ s.turn = .agent .drain ∧ s'.cursor = 0) := by
  obtain ⟨hn, -⟩ := (bufferPhase_draining s).1 hd
  have hn' : s'.bufferPhase ≠ .armed := (bufferPhase_ne_armed s').2 (ha.trans ((bufferPhase_ne_armed s).1 hn))
  by_cases hi : s'.bufferPhase = .idle
  · exact .inr ⟨hi, drain_of_draining_to_idle hw h hd hi, ((bufferPhase_idle s').1 hi).2.2⟩
  · exact .inl ((bufferPhase_draining s').2 ⟨hn', hi⟩)

/-- Settles O47: a step that keeps Armed or not Armed, E2, and E7b. -/
theorem bufferStateMachine : Obligations.BufferStateMachine := by
  intro s s' I h
  have hw := I.buffer.bytes_wf
  by_cases ha : s'.armed = s.armed
  · refine ⟨fun hi => .inl (idle_stays hw h ha hi), fun hs => .inl ?_, fun hd => ?_⟩
    · exact (bufferPhase_armed s').2 (ha.trans ((bufferPhase_armed s).1 hs))
    · exact (draining_stays_or_retires hw h ha hd).imp_right .inl
  rcases step_changes_armed h ha with ⟨ht, hp, hs'⟩ | ⟨ht, hp, hs', hb, hc⟩
  · have hn : s.bufferPhase ≠ .armed := (bufferPhase_ne_armed s).2 (armed_at hp)
    have harmed : s'.bufferPhase = .armed := (bufferPhase_armed s').2 hs'
    exact ⟨fun _ => .inr ⟨harmed, ht, hp⟩, fun hs => absurd hs hn,
      fun _ => .inr (.inr ⟨harmed, ht, hp, (window_at_lock I hp).1⟩)⟩
  · have hs : s.bufferPhase = .armed := (bufferPhase_armed s).2 (armed_at hp)
    have hn : s'.bufferPhase ≠ .armed := (bufferPhase_ne_armed s').2 hs'
    have hidle : s'.bufferPhase = .idle ↔ s.byteAt 0 = sentinel ∧ s.cursor = 0 := by
      rw [bufferPhase_idle, hb, hc, and_iff_right hn]
    refine ⟨fun hi => absurd (hs.symm.trans hi) (by decide), fun _ => .inr ⟨ht, hp, hidle.2, fun hne => ?_⟩,
      fun hd => absurd (hs.symm.trans hd) (by decide)⟩
    exact (bufferPhase_draining s').2 ⟨hn, fun hi => hne (hidle.1 hi)⟩

end Sys2Proof.Machine
end

section
/-! PROOFS. INIT_ASYNC (42_init_async.md R115 to R121): its acceptance, each micro-step alone, and the three in a row. -/

namespace Sys2Proof.Machine

open Sys2Proof.Config

/-- Settles O12. -/
theorem initAsyncIsAccepted : Obligations.InitAsyncIsAccepted := fun s hp hc =>
  execInitAsync_eq s (accepts_of_ready hp hc)

/-- Every bit of I2's value is a cause bit, so that the mask keeps it (R121). -/
theorem writeIMSC_imsc (s : State) : s.writeIMSC imscValue = { s with uartIMSC := imscValue } := rfl

/-- Settles O23: I1 and I2 write whole registers, so the earlier values do not stand in the results. -/
theorem initMicroStepsArmTheInterrupt : Obligations.InitMicroStepsArmTheInterrupt := by
  intro s
  refine ⟨fun hp => ?_, fun hp => ?_, fun hp => execI3InitLine_eq s ((atPhase_iff s .initLine).2 hp)⟩
  · have he := execI1InitIfls_eq s ((atPhase_iff s .initIfls).2 hp)
    rwa [writeIFLS_ifls] at he
  · have he := execI2InitImsc_eq s ((atPhase_iff s .initImsc).2 hp)
    rwa [writeIMSC_imsc] at he

/-- The state that I1, I2 and I3 in a row leave. -/
def State.armInterrupt (s : State) : State :=
  { s with uartIFLS := iflsValue, uartIMSC := imscValue, lineEn := true, ph := Phase.ready.code }

theorem producerMoves_init {s : State} (hp : s.ph = Phase.initIfls.code) :
    producerMoves 3 s = .next s.armInterrupt := by
  have h1 := (initMicroStepsArmTheInterrupt s).1 hp
  have h2 := (initMicroStepsArmTheInterrupt { s with uartIFLS := iflsValue, ph := Phase.initImsc.code }).2.1 rfl
  have h3 := (initMicroStepsArmTheInterrupt
    { s with uartIFLS := iflsValue, uartIMSC := imscValue, ph := Phase.initLine.code }).2.2 rfl
  exact producerMoves_trans (producerMoves_one .initIfls hp rfl h1)
    (producerMoves_trans (producerMoves_one .initImsc rfl rfl h2) (producerMoves_one .initLine rfl rfl h3))

/-- I1's value selects trigger level 2 (43_uart_boundary.md R133). -/
theorem armInterrupt_txTrig (s : State) : s.armInterrupt.txTrig = some 2 := by
  show triggerLevel (iflsValue.extractLsb' 0 3) = some 2
  decide

/-- Where the three values stand already, arming again moves only `ph` (R120). -/
theorem armInterrupt_repeated {s : State} (hifls : s.uartIFLS = iflsValue) (himsc : s.uartIMSC = imscValue)
    (hline : s.lineEn = true) : s.armInterrupt = { s with ph := Phase.ready.code } := by
  rw [State.armInterrupt, ← hifls, ← himsc, ← hline]

/-- Settles O24. -/
theorem initAsyncEffect : Obligations.InitAsyncEffect := fun s hp =>
  ⟨s.armInterrupt, producerMoves_init hp, rfl, rfl, rfl, rfl, armInterrupt_txTrig s, rfl, armInterrupt_repeated⟩

end Sys2Proof.Machine
end

section
/-! PROOFS. The UART boundary (43_uart_boundary.md R123 to R136; 60_exceptions.md R148): the dispatch condition, the device's
events, and the register writes standing alone. -/

namespace Sys2Proof.Machine

open Sys2Proof.Config

/-! ### When an agent's step is enabled -/

/-- In an initialised UART an agent whose turn is one operation under a guard is enabled exactly under the guard. -/
theorem enabled_iff_of_guard {s : State} {a : AgentStep} {g : Bool} {i : Instr} (hu : s.uartInitialised = true)
    (h : fetchTurn (.agent a) s = if g then .run i else .idle) : s.enabled a = true ↔ g = true := by
  rw [State.enabled, fetch_initialised hu, h]
  cases g <;> simp

/-! ### The interrupt request and the dispatch condition -/

theorem uartMIS_bit (s : State) (k : Nat) :
    s.uartMIS.getLsbD k = true ↔ s.uartRIS.getLsbD k = true ∧ s.uartIMSC.getLsbD k = true := by
  rw [State.uartMIS, BitVec.getLsbD_and, Bool.and_eq_true]

theorem ne_zero_iff_exists_bit (v : Word) : v ≠ 0 ↔ ∃ k, v.getLsbD k = true := by
  constructor
  · intro hv
    by_contra hbits
    exact hv (BitVec.eq_of_getLsbD_eq fun k _ => by simpa using fun hk => hbits ⟨k, hk⟩)
  · rintro ⟨k, hk⟩ rfl
    simp at hk

theorem uartIrq_iff (s : State) :
    s.uartIrq = true ↔ ∃ k, s.uartRIS.getLsbD k = true ∧ s.uartIMSC.getLsbD k = true := by
  simp only [State.uartIrq, bne_iff_ne, ne_zero_iff_exists_bit, uartMIS_bit]

theorem dispatchEnabled_iff (s : State) :
    s.dispatchEnabled = true ↔ s.lineEn = true ∧ s.cpuIrqEn = true ∧
      ((s.uartRIS.getLsbD 5 = true ∧ s.uartIMSC.getLsbD 5 = true) ∨
        (s.params.rxInvokesDrain = true ∧ s.uartRIS.getLsbD 4 = true ∧ s.uartIMSC.getLsbD 4 = true)) := by
  simp only [State.dispatchEnabled, Bool.and_eq_true, Bool.or_eq_true, uartMIS_bit, and_assoc]

/-- Settles O33: neither the dispatch condition nor the outcome it runs reads `ph`. -/
theorem dispatchCondition : Obligations.DispatchCondition := fun s =>
  ⟨fun _ => BitVec.getLsbD_and .., uartIrq_iff s, dispatchEnabled_iff s, fun hu => enabled_iff_of_guard hu rfl, fun _ => rfl⟩

/-! ### The device's events -/

theorem txEventEnabled_iff (s : State) (trig : Nat) :
    s.txEventEnabled trig = true ↔ s.txFifo.length ≤ trig ∧ (s.params.txEventMode = .owed → 0 < s.owed) := by
  cases hm : s.params.txEventMode <;> simp [State.txEventEnabled, hm, and_comm]

theorem fetchTurn_txEvent {s : State} {trig : Nat} (ht : s.txTrig = some trig) :
    fetchTurn (.agent .txEvent) s = if s.txEventEnabled trig then .run .devTxEvent else .idle := by
  rw [fetchTurn, fetchTxEvent, ht]

/-- Settles O35: in both modes the guard is R132's, and a lowered `owed` stays at 0. -/
theorem txEventRaisesTheCause : Obligations.TxEventRaisesTheCause := by
  intro s trig ht
  refine ⟨fun hu => ?_, fun hlevel howed => ?_⟩
  · exact (enabled_iff_of_guard hu (fetchTurn_txEvent ht)).trans (txEventEnabled_iff s trig)
  · have hpaid : (if 0 < s.owed then s.owed - 1 else 0) = s.owed - 1 := by split <;> omega
    rw [hpaid]
    exact execDevTxEvent_eq s ht ((txEventEnabled_iff s trig).2 ⟨hlevel, howed⟩)

/-- Settles O37. -/
theorem shiftMovesTheHeadToTheWire : Obligations.ShiftMovesTheHeadToTheWire := by
  intro s b rest hfifo hen htx
  have hshift : s.shiftEnabled = true := by simp [State.shiftEnabled, State.uartEn, State.txEn, hfifo, hen, htx]
  have hexec := execDevShift_eq s hshift
  rwa [hfifo] at hexec

/-- Settles O38. -/
theorem rxEventRaisesTheCause : Obligations.RxEventRaisesTheCause := fun s =>
  ⟨execHostRxEvent_eq s, fun hu => enabled_iff_of_guard hu rfl⟩

/-! ### Trigger levels -/

/-- The codes with a level are 0b000 to 0b100; the others are reserved (R133). -/
theorem triggerLevel_isSome_iff (sel : BitVec 3) : (triggerLevel sel).isSome = true ↔ sel.toNat < 5 := by
  revert sel; decide

theorem triggerLevel_reserved {sel : BitVec 3} (h : 5 ≤ sel.toNat) : triggerLevel sel = none :=
  Option.not_isSome_iff_eq_none.1 fun hsome => absurd ((triggerLevel_isSome_iff sel).1 hsome) (Nat.not_lt_of_le h)

/-- Settles O36: the state after I1 holds I1's value in UARTIFLS, as the armed one does, and so has its level. -/
theorem triggerLevels : Obligations.TriggerLevels :=
  ⟨rfl, rfl, rfl, rfl, rfl, fun _ => triggerLevel_reserved, fun _ => rfl, rfl,
    fun s hp => ⟨_, (initMicroStepsArmTheInterrupt s).1 hp, armInterrupt_txTrig s⟩⟩

/-! ### Register writes standing alone -/

/-- Settles O39: the two cases of `writeDR`; both say `v[7:0]`. -/
theorem dataWriteQueuesOrOverflows : Obligations.DataWriteQueuesOrOverflows := by
  intro s v
  have hexec : exec (.drWrite v) s = .next (s.writeDR .bus v) := memWrite_dr s .bus v
  have hbyte : v.extractLsb' 0 8 = v.setWidth 8 := (BitVec.setWidth_eq_extractLsb' (by decide)).symm
  rcases writeDR_cases s .bus v with ⟨hfull, he⟩ | ⟨hroom, he⟩ <;> rw [he, hbyte] at hexec
  · exact ⟨fun h => absurd hfull h, fun _ => ⟨_, hexec, mem_faults_raise s _, (marksAdded_raise s _).2.1, rfl⟩⟩
  · exact ⟨fun _ => hexec, fun h => absurd h hroom⟩

/-- Settles O40. -/
theorem interruptRegisterWrites : Obligations.InterruptRegisterWrites := fun s v =>
  ⟨memWrite_icr s .bus v, memWrite_imsc s .bus v⟩

/-- What a UARTIFLS write does (R128): both field codes have a level, or the write is refused. -/
theorem writeIFLS_accepted (s : State) {v : Word} (htx : (v.extractLsb' 0 3).toNat < 5)
    (hrx : (v.extractLsb' 3 3).toNat < 5) : s.writeIFLS v = { s with uartIFLS := v &&& 0x3F#32 } :=
  if_pos (Bool.and_eq_true_iff.2 ⟨(triggerLevel_isSome_iff _).2 htx, (triggerLevel_isSome_iff _).2 hrx⟩)

theorem writeIFLS_reserved (s : State) {v : Word}
    (h : 5 ≤ (v.extractLsb' 0 3).toNat ∨ 5 ≤ (v.extractLsb' 3 3).toNat) : s.writeIFLS v = s.refuse .reservedIfls := by
  refine if_neg fun hboth => ?_
  simp only [Bool.and_eq_true, triggerLevel_isSome_iff] at hboth
  omega

/-- The mask of a UARTIFLS write keeps TXIFLSEL. -/
theorem iflsMask_keeps_txSelect (v : Word) : (v &&& 0x3F#32).extractLsb' 0 3 = v.extractLsb' 0 3 := by
  rw [BitVec.extractLsb'_and]
  exact BitVec.and_allOnes

/-- Settles O41. -/
theorem levelSelectWrite : Obligations.LevelSelectWrite := by
  intro s v
  have hexec : exec (.iflsWrite v) s = .next (s.writeIFLS v) := memWrite_ifls s .bus v
  refine ⟨fun htx hrx => ?_, fun hreserved => ?_⟩
  · rw [writeIFLS_accepted s htx hrx] at hexec
    exact ⟨_, hexec, rfl, congrArg triggerLevel (iflsMask_keeps_txSelect v)⟩
  · rwa [writeIFLS_reserved s hreserved] at hexec

end Sys2Proof.Machine
end

section
/-! PROOFS. The hang before INIT_ASYNC (70_reset_and_hazards.md R169; 60_exceptions.md R144): with the line off no Drain
invocation is dispatched, so the first byte that E1 waits on stays, and so do the Producer and the Host. -/

namespace Sys2Proof.Machine

open Sys2Proof.Config

/-! ### The stranded Producer -/

/-- `s`, reached from `s₀`, waits at E1 on `s₀`'s buffer with a non-zero first byte, no command accepted since, while the line
is off. -/
structure State.Stranded (s₀ s : State) : Prop where
  lineEn : s.lineEn = false
  ph : s.ph = Phase.wait.code
  first : s.byteAt 0 ≠ sentinel
  bytes : s.bytes = s₀.bytes
  pcmd : s.pcmd = s₀.pcmd
  initialised : s.uartInitialised = s₀.uartInitialised

theorem stranded_refl {s : State} (hl : s.lineEn = false) (hp : s.ph = Phase.wait.code) (h0 : s.byteAt 0 ≠ sentinel) :
    s.Stranded s :=
  ⟨hl, hp, h0, rfl, rfl, rfl⟩

theorem stranded_congr {s₀ s u : State} (I : s₀.Stranded s) (hl : u.lineEn = s.lineEn) (hp : u.ph = s.ph)
    (hb : u.bytes = s.bytes) (hc : u.pcmd = s.pcmd) (hu : u.uartInitialised = s.uartInitialised) : s₀.Stranded u :=
  ⟨hl.trans I.lineEn, hp.trans I.ph, byteAt_congr hb 0 ▸ I.first, hb.trans I.bytes, hc.trans I.pcmd,
    hu.trans I.initialised⟩

theorem stranded_giveTurn {s₀ s : State} (I : s₀.Stranded s) (a : AgentStep) : s₀.Stranded (s.giveTurn a) :=
  stranded_congr I rfl rfl rfl rfl rfl

/-- The Producer is not READY, so the state is not final (R181). -/
theorem final_stranded {s₀ s : State} (I : s₀.Stranded s) : s.final = false := by
  have hr : s.atPhase .ready = false := atPhase_of_ph s I.ph
  simp [State.final, hr]

/-! ### Every turn -/

/-- Only I3 writes `lineEn` (42_init_async.md R118). -/
theorem effect_keeps_lineEn {s s' : State} {i : Instr} (e : Effect s i s') (hi : i ≠ .i3InitLine) :
    s'.lineEn = s.lineEn := by
  cases e
  case initLine => exact absurd rfl hi
  all_goals simp

/-- At WAIT with the line off, a turn runs E1, a device event, receive traffic or a register write: the Host waits for
READY, and the Drain for the line. -/
theorem fetch_run_stranded {s₀ s : State} {i : Instr} (I : s₀.Stranded s) (h : fetch s.turn s = .run i) :
    i = .e1Wait ∨ i.format = .regw ∨ i = .devTxEvent ∨ i = .devShift ∨ i = .hostRxEvent := by
  rcases fetch_run h with ⟨-, hr, -⟩ | ⟨-, p, hi, hp⟩ | ⟨-, hd, -⟩ | ⟨-, rfl, -⟩ | ⟨-, rfl, -⟩ | ⟨-, rfl, -⟩ | ⟨-, hw⟩
  · exact absurd (hr.symm.trans (atPhase_of_ph s I.ph)) (by decide)
  · obtain rfl := code_injective (I.ph.symm.trans hp)
    cases i <;> cases hi
    exact .inl rfl
  · exact absurd (I.lineEn.symm.trans ((dispatchEnabled_iff s).1 hd).1) (by decide)
  · exact .inr (.inr (.inl rfl))
  · exact .inr (.inr (.inr (.inl rfl)))
  · exact .inr (.inr (.inr (.inr rfl)))
  · exact .inr (.inl hw)

/-- An E1 that finds a non-zero first byte leaves the state as it is (R86). -/
theorem effect_idleTest_fails {s s' : State} (e : Effect s .e1Wait s') (hp : s.ph = Phase.wait.code)
    (h0 : s.byteAt 0 ≠ sentinel) : s' = s := by
  cases e with
  | waits => rfl
  | idleTestPasses _ hz => exact absurd hz h0
  | idleTestFails => rw [State.setPh, ← hp]

/-- No turn, of an agent or on the bus, ends the wait. -/
theorem step_keeps_stranded {s₀ s s' : State} (I : s₀.Stranded s) (h : step s = .next s') : s₀.Stranded s' := by
  have hu := step_keeps_uartInitialised h
  rcases step_marks_or_effect h with ⟨fs, rs, rfl, -⟩ | ⟨i, hf, e⟩
  · exact stranded_congr I (by simp) (by simp) (by simp) (by simp) hu
  rcases fetch_run_stranded I hf with rfl | hi
  · obtain rfl := effect_idleTest_fails e (by simp [I.ph]) (by simp [I.first])
    exact stranded_congr I (by simp) (by simp) (by simp) (by simp) hu
  · obtain ⟨hb, -, -, -, -, -, -, hp, hc⟩ := effect_device_frame e hi
    have hl := effect_keeps_lineEn e (by rintro rfl; simp [Instr.format] at hi)
    exact stranded_congr I (by simpa using hl) (by simpa using hp) (by simpa using hb) (by simpa using hc) hu

/-! ### Runs -/

/-- A step leaves the rest of its schedule. -/
theorem step_keeps_onlyAgents {s s' : State} (ha : s.onlyAgents = true) (h : step s = .next s') :
    s'.onlyAgents = true := by
  have hpass := (agent_turn ha).2
  rcases step_marks_or_effect h with ⟨fs, rs, rfl, -⟩ | ⟨i, -, e⟩
  · exact hpass
  · simpa only [State.onlyAgents, effect_turns e, record_turns] using hpass

/-- Neither a bus write nor E4b stops the machine here. -/
theorem step_stranded {s₀ s : State} (I : s₀.Stranded s) (ha : s.onlyAgents = true) : ∃ s', step s = .next s' := by
  rcases whatStopsTheMachine s with h | ⟨addr, n, v, ht, -⟩ | ⟨-, hp, -⟩
  · exact h
  · have hagent := (agent_turn ha).1
    rw [ht] at hagent
    cases hagent
  · exact absurd (I.ph.symm.trans hp) (by decide)

theorem steps_stranded {s₀ s : State} (n : Nat) (I : s₀.Stranded s) (ha : s.onlyAgents = true) :
    ∃ t, steps n s = .next t ∧ s₀.Stranded t := by
  induction n generalizing s with
  | zero => exact ⟨s, rfl, I⟩
  | succ n ih =>
    obtain ⟨s', h⟩ := step_stranded I ha
    rw [steps, h, thenDo_next]
    exact ih (step_keeps_stranded I h) (step_keeps_onlyAgents ha h)

theorem run_stranded {sched : Nat → AgentStep} {r : Nat → State} (hr : IsRun sched r) (I : (r 0).Stranded (r 0)) (n : Nat) :
    (r 0).Stranded (r n) :=
  run_invariant hr I (fun a _ _ J h => step_keeps_stranded (stranded_giveTurn J a) h) n

/-! ### The Producer's turn -/

theorem fetchProducer_wait {s : State} (hp : s.ph = Phase.wait.code) : fetchProducer s = .run .e1Wait :=
  fetchProducer_ph (by rw [hp]; rfl)

/-- In an initialised UART the Producer's turn is one more spin, E1 with event 0x11. -/
theorem step_producer_stranded {s₀ s : State} (I : s₀.Stranded s) (hu : s.uartInitialised = true)
    (ht : s.turn = .agent .producer) : ∃ u, step s = .next u ∧ u.trace = s.trace ++ [0x11#8] ∧ u.ph = s.ph := by
  have hstep := step_of_fetchTurn hu ht (fetchProducer_wait I.ph)
  rw [idleTestReadsFirstByte _ (by simp [I.ph]), byteAt_record, byteAt_passTurn, if_neg I.first, ← I.ph] at hstep
  exact ⟨_, hstep, by simp [Instr.eventCode], rfl⟩

/-- E1 stays enabled, so a weakly fair run takes it again and again (R144, R182). -/
theorem hangs_of_stranded {sched : Nat → AgentStep} {r : Nat → State} (hr : IsRun sched r) (hfair : WeaklyFair sched r)
    (hu : (r 0).uartInitialised = true) (I : (r 0).Stranded (r 0)) : Hangs sched r := by
  have spins : ∀ n, fetch (.agent .producer) (r n) = .run .e1Wait := fun n =>
    have J := run_stranded hr I n
    (fetch_initialised (J.initialised.trans hu) _).trans (fetchProducer_wait J.ph)
  have enabled : ∀ n, (r n).fairEnabled .producer = true := fun n => by
    simp [State.fairEnabled, enabled_of_fetch_run (spins n)]
  refine ⟨0, fun m _ => (run_stranded hr I m).first, fun m _ => ?_⟩
  obtain ⟨k, hk, hsched⟩ := hfair .producer m fun n _ => enabled n
  exact ⟨k, hk, hsched, spins k⟩

/-- Settles O60: the Producer stays stranded along a run of any length, and each of its turns spins. -/
theorem enqueueBeforeInitHangs : Obligations.EnqueueBeforeInitHangs := by
  refine ⟨fun sched r hr hfair hu hl hp h0 => hangs_of_stranded hr hfair hu (stranded_refl hl hp h0),
    fun n s hl hp h0 ha => ?_⟩
  obtain ⟨t, ht, J⟩ := steps_stranded n (stranded_refl hl hp h0) ha
  exact ⟨t, ht, J.ph, J.bytes, J.lineEn, J.pcmd, final_stranded J,
    fun hu hturn => step_producer_stranded J (J.initialised.trans hu) hturn⟩

end Sys2Proof.Machine
end

section
/-! PROOFS. The single writer along every step (70_reset_and_hazards.md R171), and the launch states, which meet every
invariant (R161, R184). -/

namespace Sys2Proof.Machine

open Sys2Proof.Config

/-! ### The single writer at every step -/

/-- The schedule, the trace and the marks are no part of the single writer's invariant, as long as only agents move. -/
theorem writer_schedule {level : Nat} {s : State} (I : s.SingleWriterInv level) {turns : List Turn}
    (ht : turns.all Turn.isAgent = true) (tick : Nat) (trace : List Byte) (faults : List Fault) (refusals : List Refusal) :
    { s with turns := turns, tick := tick, trace := trace, faults := faults,
             refusals := refusals }.SingleWriterInv level :=
  writer_congr (s := s) (windowInv_frame (s := s) rfl rfl rfl rfl rfl rfl rfl I.window) rfl rfl rfl rfl ht rfl rfl rfl rfl
    rfl (Nat.le_refl _) I

/-- One TX event is owed at the most, so the FIFO holds at the most one byte above the level. -/
theorem fifo_le_of_writer {level : Nat} {s : State} (I : s.SingleWriterInv level) : s.txFifo.length ≤ level + 1 := by
  have hf := I.fifo_level
  rcases Nat.eq_zero_or_pos s.owed with h | h
  · omega
  · have := (token_of_owed I h).1
    omega

/-- A turn that runs nothing leaves the right to write UARTDR where it is, and adds a fault at a reserved phase only; every
operation of an agent keeps the invariant and finds room in the FIFO. -/
theorem step_keeps_writer {level : Nat} {s s' : State} (I : s.SingleWriterInv level) (h : step s = .next s') :
    s'.SingleWriterInv level ∧ ((Phase.ofCode s.ph).isSome = true → s'.faults = s.faults) := by
  obtain ⟨hagent, hrest⟩ := agent_turn I.agents
  have marked : ∀ fs rs, { s.passTurn with faults := fs, refusals := rs }.SingleWriterInv level := fun fs rs => by
    rw [passTurn_eq]
    exact writer_schedule I hrest _ s.trace fs rs
  rcases step_cases h with rfl | ⟨r, -, rfl⟩ | ⟨-, hp, rfl⟩ | ⟨i, hf, e⟩
  · exact ⟨marked s.passTurn.faults s.passTurn.refusals, fun _ => passTurn_faults s⟩
  · exact ⟨marked s.passTurn.faults _, fun _ => passTurn_faults s⟩
  · exact ⟨marked _ s.passTurn.refusals, fun hk => by simp [hp] at hk⟩
  · have J : (s.passTurn.record i).SingleWriterInv level := by
      rw [ran_eq]
      exact writer_schedule I hrest _ _ s.faults s.refusals
    have ha := agentMayRun_ran (agentMayRun_of_fetch hagent hf)
    exact ⟨effect_keeps_writer e ha J, fun _ => (effect_faults e ha J).trans (by simp)⟩

/-- Settles O55: the invariant's one token bounds the FIFO. -/
theorem singleWriterNeverOverflows : Obligations.SingleWriterNeverOverflows := by
  intro level s s' I h
  obtain ⟨I', hfaults⟩ := step_keeps_writer I h
  exact ⟨I', fifo_le_of_writer I', hfaults⟩

/-! ### Reset and launch -/

theorem reset_launched : State.reset.Launched := by constructor <;> decide

/-- Settles O45, value by value. -/
theorem resetValues : Obligations.ResetValues := by
  refine ⟨reset_launched, ?_, ?_, ?_, ?_, ?_, ?_, ?_⟩ <;> decide

section Launch

variable {s : State} (h : s.Launched)

include h

theorem launched_bufferInv : s.BufferInv := by
  refine (bufferInv_at h.ph).2 ⟨h.bytes_wf, h.locked, ?_, ?_, ?_, fun _ => ⟨0, ?_, by decide, h.bytes_zero⟩, by simp, by simp⟩
  · rw [h.cursor]; decide
  · rw [h.i]; decide
  · rw [h.txFifo]; decide
  · rw [h.cursor]; decide

theorem launched_windowInv (hs : s.params.copyStopsAtZero = true) : s.WindowInv :=
  (windowInv_at h.ph (launched_bufferInv h)).2 ⟨hs, by simp, fun _ _ => .inl h.cursor, by simp⟩

theorem launched_deviceBooksInv (hm : s.params.txEventMode = .owed) : s.DeviceBooksInv := by
  refine ⟨hm, ?_, ?_, ?_⟩ <;> simp [State.traceCount, h.owed, h.trace, h.wire, h.txFifo]

/-- Nothing is in the buffer, and no TX event is owed or pending. -/
theorem launched_writerInv (hs : s.params.copyStopsAtZero = true) (hm : s.params.txEventMode = .owed)
    (ha : s.onlyAgents = true) (hq : s.params.rxInvokesDrain = false ∨ s.params.rxTraffic = false)
    (hp : noEmptyMessage true s.prog = true) : s.SingleWriterInv 8 := by
  have quiet : s.rxQuiet = true := by
    simpa [State.rxQuiet, State.rxRIS, h.uartRIS] using hq
  have trigger : s.txTrig = some 8 := by rw [State.txTrig, h.uartIFLS]; decide
  refine (writer_at h.ph (launched_windowInv h hs)).2
    ⟨⟨ha, quiet, hm, hp, ⟨8, trigger, by decide⟩, by decide, by decide⟩, by simp, by simp, by simp, ?_, ?_⟩
  · simp [State.txTokens, State.txRIS, h.owed, h.uartRIS, h.bytes_zero]
  · simp [h.txFifo]

theorem launched_undelivered : s.undelivered = [] := by
  rw [undelivered_free h.ph (by decide), State.bufferRest, if_pos h.bytes_zero]

/-- The commands accepted so far are none, and so is what they give. -/
theorem launched_outputInv (hs : s.params.copyStopsAtZero = true) (hm : s.params.txEventMode = .owed)
    (ha : s.onlyAgents = true) (hq : s.params.rxInvokesDrain = false ∨ s.params.rxTraffic = false)
    (hp : noEmptyMessage true s.prog = true) : s.OutputInv 8 := by
  refine ⟨launched_writerInv h hs hm ha hq hp, loaded_outside h.ph (by decide), ?_, fun _ => h.tail, ?_, ?_⟩
  · rw [h.pcmd]; exact Nat.zero_le _
  · rw [h.ph]; rfl
  · rw [launched_undelivered h, h.wire, h.txFifo, h.pcmd]; rfl

end Launch

/-- Settles O53: reset is a launch state. -/
theorem launchStatesMeetTheInvariants : Obligations.LaunchStatesMeetTheInvariants :=
  ⟨launched_bufferInv reset_launched, launched_windowInv reset_launched rfl, launched_deviceBooksInv reset_launched rfl,
    fun _ h => ⟨launched_bufferInv h, launched_windowInv h, launched_deviceBooksInv h, launched_outputInv h⟩⟩

end Sys2Proof.Machine
end

section
/-! PROOFS. What a run from a launch state keeps beyond its output (R183): the interrupt is armed or still being armed by the
first command, an empty buffer that is not Armed is Idle, and no mark is recorded. -/

namespace Sys2Proof.Machine

open Sys2Proof.Config

/-! ### Arming the interrupt -/

/-- The interrupt is armed for the Drain (42_init_async.md R121). -/
def State.LineOn (s : State) : Prop := s.lineEn = true ∧ s.uartIMSC = imscValue

/-- INIT_ASYNC is the coming command or under way, and nothing waits for the Drain yet. -/
structure State.Arming (s : State) : Prop where
  first : s.byteAt 0 = sentinel
  phase : (s.ph = Phase.ready.code ∧ s.pcmd = 0) ∨ s.ph = Phase.initIfls.code ∨ s.ph = Phase.initImsc.code ∨
    (s.ph = Phase.initLine.code ∧ s.uartIMSC = imscValue)

theorem arming_congr {s u : State} (A : s.Arming) (hb : u.bytes = s.bytes) (hp : u.ph = s.ph) (hc : u.pcmd = s.pcmd)
    (hm : u.uartIMSC = s.uartIMSC ∨ u.uartIMSC = imscValue) : u.Arming := by
  refine ⟨byteAt_congr hb 0 ▸ A.first, ?_⟩
  rw [hp, hc]
  exact A.phase.imp_right (.imp_right (.imp_right fun ⟨h, hi⟩ => ⟨h, hm.elim (·.trans hi) id⟩))

/-- Of the agents only I2 writes UARTIMSC (42_init_async.md R117). -/
theorem effect_uartIMSC {s s' : State} {i : Instr} (e : Effect s i s') (hr : i.format ≠ .regw) :
    s'.uartIMSC = s.uartIMSC ∨ s'.uartIMSC = imscValue := by
  cases e
  case initImsc => exact .inr rfl
  case imscWrite => exact absurd rfl hr
  all_goals exact .inl (by simp)

theorem arming_device {s s' : State} {i : Instr} (A : s.Arming) (e : Effect s i s') (hr : i.format ≠ .regw)
    (hi : i = .devTxEvent ∨ i = .devShift ∨ i = .hostRxEvent) : s'.Arming := by
  obtain ⟨hb, -, -, -, -, -, -, hp, hc⟩ := effect_device_frame e (.inr hi)
  exact arming_congr A hb hp hc (effect_uartIMSC e hr)

theorem effect_keeps_lineOn {s s' : State} {i : Instr} (e : Effect s i s') (hr : i.format ≠ .regw) (L : s.LineOn) :
    s'.LineOn := by
  obtain ⟨-, -, -, -, -, -, -, -, hl⟩ := effect_launchKept e
  exact ⟨hl L.1, (effect_uartIMSC e hr).elim (·.trans L.2) id⟩

theorem microStep_of_phase {i : Instr} {p : Phase} (h : i.phase = some p) : p.microStep = some i := by
  cases i <;> cases h <;> rfl

/-- A micro-step of the arming is followed by the next, and the last one enables the line. -/
theorem arming_microStep {s s' : State} {i : Instr} {p : Phase} (A : s.Arming) (e : Effect s i s')
    (hi : i.phase = some p) (hp : s.ph = p.code) : s'.LineOn ∨ s'.Arming := by
  have hstep := microStep_of_phase hi
  rcases A.phase with ⟨h, -⟩ | h | h | ⟨h, hm⟩ <;> obtain rfl := code_injective (h.symm.trans hp) <;> cases hstep
  · cases e with
    | waits => exact .inr A
    | initIfls => exact .inr ⟨A.first, .inr (.inr (.inl rfl))⟩
  · cases e with
    | waits => exact .inr A
    | initImsc => exact .inr ⟨A.first, .inr (.inr (.inr ⟨rfl, rfl⟩))⟩
  · cases e with
    | waits => exact .inr A
    | initLine => exact .inl ⟨rfl, hm⟩

/-- The first command is INIT_ASYNC, and begins the arming. -/
theorem arming_accept {s s' : State} {i : Instr} (A : s.Arming) (e : Effect s i s') (hready : s.atPhase .ready = true)
    (hc : commandAt s.prog s.pcmd = .ok i) (hfirst : (decodeStream s.prog).1.head? = some .initAsync) : s'.Arming := by
  have hp := (atPhase_iff _ _).1 hready
  rcases A.phase with ⟨-, h0⟩ | h | h | ⟨h, -⟩
  · rw [h0, commandAt_eq_ok, ← List.head?_eq_getElem?, hfirst] at hc
    cases hc
    cases e with
    | waits => exact A
    | initAsync => exact ⟨A.first, .inr (.inl rfl)⟩
  all_goals exact absurd (h.symm.trans hp) (by decide)

/-! ### The empty buffer -/

/-- A buffer that is not Armed and whose first byte is the sentinel is Idle: `cursor` is 0. -/
def State.EmptyIsIdle (s : State) : Prop := s.bufferPhase = .draining → s.byteAt 0 ≠ sentinel

/-- Outside Armed an operation that changes the first byte is RETIRE. -/
theorem effect_empties {s s' : State} {i : Instr} (e : Effect s i s') (hn : s.armed = false)
    (hne : s'.byteAt 0 ≠ s.byteAt 0) : s'.cursor = 0 := by
  have busy : ∀ {p}, s.atPhase p = true → p ∉ armedPhases := fun hp => by
    simpa [armed_at ((atPhase_iff _ _).1 hp)] using hn
  cases e
  case guard h => exact absurd (by decide) (busy h)
  case copyByte h _ => exact absurd (by decide) (busy h)
  case term h _ => exact absurd (by decide) (busy h)
  case retire => rfl
  all_goals exact absurd (byteAt_congr (by simp [enableLine]) 0) hne

/-- A step that empties the buffer resets `cursor`, and the kick leaves its message's first byte. -/
theorem step_keeps_emptyIsIdle {level : Nat} {s s' : State} (I : s.SingleWriterInv level) (h : step s = .next s')
    (E : s.EmptyIsIdle) : s'.EmptyIsIdle := by
  intro hd h0
  obtain ⟨hn', hni'⟩ := (bufferPhase_draining s').1 hd
  have hna' := (bufferPhase_ne_armed s').1 hn'
  by_cases ha : s'.armed = s.armed
  · have hna : s.armed = false := ha.symm.trans hna'
    by_cases hb : s'.byteAt 0 = s.byteAt 0
    · refine E ((bufferPhase_draining s).2 ⟨(bufferPhase_ne_armed s).2 hna, fun hi => ?_⟩) (hb ▸ h0)
      exact hni' (idle_stays I.window.buffer.bytes_wf h ha hi)
    · refine hni' ((bufferPhase_idle s').2 ⟨hn', h0, ?_⟩)
      rcases step_marks_or_effect h with ⟨fs, rs, rfl, -⟩ | ⟨i, -, e⟩
      · exact absurd (byteAt_passTurn s 0) hb
      · exact effect_empties e ((armed_congr (by simp)).trans hna) (by simpa using hb)
  · rcases step_changes_armed h ha with ⟨-, -, ha'⟩ | ⟨-, hp, -, hb, -⟩
    · exact absurd (ha'.symm.trans hna') (by decide)
    · exact I.held (by simp [(atPhase_iff s .kickWrite).2 hp]) (hb ▸ h0)

/-! ### Marks -/

/-- Where there is a trigger level, no operation of an agent refuses anything: I1's value has no reserved code. -/
theorem effect_refusals {s s' : State} {i : Instr} (e : Effect s i s') (hr : i.format ≠ .regw) (ht : s.txTrig ≠ none) :
    s'.refusals = s.refusals := by
  cases e
  case noTrigger h => exact absurd h ht
  case iflsWrite => exact absurd rfl hr
  case initIfls => rfl
  all_goals simp

/-- In an initialised UART with a trigger level and a complete stream, an agent's turn refuses nothing. -/
theorem fetch_agent_ne_refuse {s : State} (hu : s.uartInitialised = true) (ht : s.txTrig ≠ none)
    (hc : (decodeStream s.prog).2 = .endOfStream) (a : AgentStep) (r : Refusal) : fetch (.agent a) s ≠ .refuse r := by
  rw [fetch_initialised hu]
  intro h
  cases a <;> simp only [fetchTurn] at h
  case host =>
    unfold fetchHost at h
    split at h
    · have hend : ∀ {e}, s.nextCommand = .error e → e = .endOfStream := fun he => (commandAt_eq_error he).trans hc
      split at h
      · cases h
      · next he => cases hend he
      · next he => cases hend he
      · cases h
    · cases h
  case producer => unfold fetchProducer at h; split at h <;> cases h
  case drain => unfold fetchDrain at h; split at h <;> cases h
  case txEvent =>
    unfold fetchTxEvent at h
    split at h
    · next hn => exact ht hn
    · split at h <;> cases h
  case shift => split at h <;> cases h
  case rxEvent => split at h <;> cases h

/-! ### The invariant of a run -/

/-- A complete stream that begins with INIT_ASYNC (R183). -/
structure Complete (prog : List Byte) : Prop where
  ends : (decodeStream prog).2 = .endOfStream
  first : (decodeStream prog).1.head? = some .initAsync

/-- What holds throughout a run of `prog` from a launch state under R183's premises. -/
structure State.RunInv (prog : List Byte) (s : State) : Prop where
  output : s.OutputInv 8
  prog_eq : s.prog = prog
  initialised : s.uartInitialised = true
  irq : s.cpuIrqEn = true
  line : s.LineOn ∨ s.Arming
  empty : s.EmptyIsIdle
  unmarked : s.unmarked = true

theorem runInv_launched {s : State} (h : s.Launched) (hs : s.params.copyStopsAtZero = true)
    (hm : s.params.txEventMode = .owed) (ha : s.onlyAgents = true)
    (hq : s.params.rxInvokesDrain = false ∨ s.params.rxTraffic = false) (hp : noEmptyMessage true s.prog = true) :
    s.RunInv s.prog := by
  have hidle : s.bufferPhase = .idle :=
    (bufferPhase_idle s).2 ⟨(bufferPhase_ne_armed s).2 (armed_at h.ph), h.bytes_zero, h.cursor⟩
  exact ⟨launched_outputInv h hs hm ha hq hp, rfl, launched_initialised h, h.cpuIrqEn,
    .inr ⟨h.bytes_zero, .inl ⟨h.ph, h.pcmd⟩⟩, fun hd => by simp [hidle] at hd,
    (unmarked_iff s).2 ⟨h.faults, h.refusals⟩⟩

theorem txTrig_ne_none {level : Nat} {s : State} (I : s.SingleWriterInv level) : s.txTrig ≠ none := by
  obtain ⟨n, hn, -⟩ := I.trigger
  simp [hn]

/-- Every turn of an agent keeps the interrupt armed, or takes the arming on. -/
theorem step_keeps_line {prog : List Byte} {s s' : State} (hc : Complete prog) (I : s.RunInv prog)
    (h : step s = .next s') : s'.LineOn ∨ s'.Arming := by
  rcases step_marks_or_effect h with ⟨fs, rs, rfl, -⟩ | ⟨i, hf, e⟩
  · exact I.line.imp (by simp [State.LineOn]) fun A =>
      arming_congr A (by simp) (by simp) (by simp) (.inl (by simp))
  · have J := outputInv_ran I.output i
    have ha := agentMayRun_ran (agentMayRun_of_fetch (agent_turn I.output.writer.agents).1 hf)
    have line : (s.passTurn.record i).LineOn ∨ (s.passTurn.record i).Arming :=
      I.line.imp (by simp [State.LineOn]) fun A => arming_congr A (by simp) (by simp) (by simp) (.inl (by simp))
    rcases line with L | A
    · exact .inl (effect_keeps_lineOn e ha.1 L)
    rcases fetch_run hf with
      ⟨-, hr, hcmd⟩ | ⟨-, p, hi, hp⟩ | ⟨-, -, hd⟩ | ⟨-, hi, -⟩ | ⟨-, hi, -⟩ | ⟨-, hi, -⟩ | ⟨-, hw⟩
    · exact .inr (arming_accept A e (by simpa [State.atPhase] using hr) (by simpa using hcmd)
        (by simpa [I.prog_eq] using hc.first))
    · exact arming_microStep A e hi (by simpa using hp)
    · refine absurd A.first (first_ne_of_dispatch J.writer (ha.2 ?_))
      rw [hd]
      cases s.drainOutcome <;> simp [DrainOutcome.instr]
    · exact .inr (arming_device A e ha.1 (.inl hi))
    · exact .inr (arming_device A e ha.1 (.inr (.inl hi)))
    · exact .inr (arming_device A e ha.1 (.inr (.inr hi)))
    · exact absurd hw ha.1

theorem step_refusals {prog : List Byte} {s s' : State} (hc : Complete prog) (I : s.RunInv prog)
    (h : step s = .next s') : s'.refusals = s.refusals := by
  have hagent := (agent_turn I.output.writer.agents).1
  have ht := txTrig_ne_none I.output.writer
  rcases step_cases h with rfl | ⟨r, hf, -⟩ | ⟨-, -, rfl⟩ | ⟨i, hf, e⟩
  · exact passTurn_refusals s
  · cases hturn : s.turn with
    | agent a =>
      rw [hturn] at hf
      exact absurd hf (fetch_agent_ne_refuse I.initialised ht (I.prog_eq ▸ hc.ends) a r)
    | bus _ _ _ => simp [hturn, Turn.isAgent] at hagent
    | secondProducer => simp [hturn, Turn.isAgent] at hagent
  · exact passTurn_refusals s
  · have htrig : (s.passTurn.record i).txTrig ≠ none := by simpa [State.txTrig] using ht
    simpa using effect_refusals e (agentMayRun_of_fetch hagent hf).1 htrig

/-- Every step keeps the invariant, and there is one. -/
theorem step_runInv {prog : List Byte} {s : State} (hc : Complete prog) (I : s.RunInv prog) :
    ∃ s', step s = .next s' ∧ s'.RunInv prog := by
  obtain ⟨s', h, hout, hfaults⟩ := outputIsExactAtEveryStep 8 s I.output
  obtain ⟨-, hprog, hirq, -⟩ := launchStateNeverChanges s s' h
  obtain ⟨hf, hr⟩ := (unmarked_iff s).1 I.unmarked
  exact ⟨s', h, hout, hprog.trans I.prog_eq, (step_keeps_uartInitialised h).trans I.initialised, hirq.trans I.irq,
    step_keeps_line hc I h, step_keeps_emptyIsIdle I.output.writer h I.empty,
    (unmarked_iff s').2 ⟨hfaults.trans hf, (step_refusals hc I h).trans hr⟩⟩

end Sys2Proof.Machine
end

section
/-! PROOFS. The steps a program still takes (R183, log 17): a measure of them that every operation an agent may run lowers,
but for a failing idle test and receive traffic; and the agent whose step is certain to lower it. -/

namespace Sys2Proof.Machine

open Sys2Proof.Config

/-! ### The measure -/

/-- The Producer's micro-steps from a phase to the end of an enqueue of `n` bytes, `i` of them copied, where the idle test
passes at once (40_enqueue.md R85), or to the end of INIT_ASYNC. -/
def loadWork (n i : Nat) : Phase → Nat
  | .ready => 0
  | .wait => n + 9 | .lock => n + 8 | .guard => n + 7 | .copy => n - i + 6 | .term => 5 | .cursor => 4 | .unlock => 3
  | .kickRead => 2 | .kickWrite => 1
  | .initIfls => 3 | .initImsc => 2 | .initLine => 1

/-- The Producer's micro-steps for the accepted commands; the enqueue of CR LF takes 11. -/
def State.phaseWork (s : State) : Nat :=
  ((Phase.ofCode s.ph).elim 0 (loadWork (storedPart true s.msg).length s.i.toNat)) + if s.tail then 11 else 0

/-- The acceptance of a command and the Producer's micro-steps for it. -/
def commandWork : Instr → Nat
  | .initAsync => 4
  | .enqueue m => (storedPart true m).length + 10
  | .enqueueLine m => (storedPart true m).length + 21
  | _ => 0

/-- All steps that a command takes: each of its bytes is written, owes a TX event and is shifted, where the
first write is the kick's and the last Drain invocation RETIREs. -/
def commandCost (i : Instr) : Nat := 3 * (payload true i).length + commandWork i

/-- What is still to be written to UARTDR, and the commands still to be accepted, in steps. -/
def State.debt (s : State) : Nat :=
  3 * s.undelivered.length + (((decodeStream s.prog).1.drop s.pcmd).map commandCost).sum

/-- The steps that the program still takes: a byte in the FIFO one SHIFT, an owed TX event itself and the Drain's answer. -/
def State.measure (s : State) : Nat := s.debt + s.phaseWork + s.txFifo.length + s.owed + s.txTokens

theorem phaseWork_at {s : State} {p : Phase} (h : s.ph = p.code) :
    s.phaseWork = loadWork (storedPart true s.msg).length s.i.toNat p + if s.tail then 11 else 0 := by
  rw [State.phaseWork, h, ofCode_code]
  rfl

/-- 279 steps are enough for any command. -/
theorem commandCost_le (i : Instr) : commandCost i ≤ 279 := by
  have crlf_two : crlf.length = 2 := rfl
  cases i with
  | initAsync => decide
  | enqueue m =>
    have := (length_storedPart_le m).1
    simp only [commandCost, payload, commandWork]
    omega
  | enqueueLine m =>
    have := (length_storedPart_le m).1
    simp only [commandCost, payload, commandWork, List.length_append]
    omega
  | _ => exact Nat.zero_le _

theorem commandCost_pos {i : Instr} (h : i.format = .cmd) : 0 < commandCost i := by
  cases i with
  | initAsync => decide
  | enqueue m => simp [commandCost, commandWork]
  | enqueueLine m => simp [commandCost, commandWork]
  | _ => cases h

theorem sum_commandCost_le (cs : List Instr) : (cs.map commandCost).sum ≤ 279 * cs.length := by
  rw [Nat.mul_comm, ← smul_eq_mul, ← List.length_map (f := commandCost)]
  refine List.sum_le_card_nsmul _ _ fun n hn => ?_
  obtain ⟨i, -, rfl⟩ := List.mem_map.1 hn
  exact commandCost_le i

/-- The measure reads neither the schedule nor the trace, and of UARTRIS the transmit cause only. -/
theorem measure_congr (s : State) {turns : List Turn} {tick : Nat} {trace : List Byte} {ris : Word}
    (h : ris.getLsbD 5 = s.txRIS) :
    { s with turns := turns, tick := tick, trace := trace, uartRIS := ris }.measure = s.measure := by
  have htok : { s with turns := turns, tick := tick, trace := trace, uartRIS := ris }.txTokens = s.txTokens := by
    simp only [State.txTokens, State.txRIS, h]
    rfl
  rw [State.measure, htok]
  rfl

/-! ### Every taken step lowers the measure -/

/-- What an operation writes to UARTDR is no longer to be written, and a command that it accepts no longer to be accepted. -/
theorem effect_debt {level : Nat} {s s' : State} {i : Instr} (e : Effect s i s') (ha : s.AgentMayRun i)
    (I : s.OutputInv level) :
    (s'.pcmd = s.pcmd ∧ s'.debt + 3 * (s'.wire.length + s'.txFifo.length) =
      s.debt + 3 * (s.wire.length + s.txFifo.length)) ∨
    (s.accepts i = true ∧ s'.debt + commandWork i + 3 * (s'.wire.length + s'.txFifo.length) =
      s.debt + 3 * (s.wire.length + s.txFifo.length)) := by
  have hprog : s'.prog = s.prog := (effect_launchKept e).2.1
  have length_output : ∀ u : State, u.output.length = u.wire.length + u.txFifo.length + u.undelivered.length := fun u => by
    simp [State.output, Nat.add_assoc]
  have h := length_output s
  have h' := length_output s'
  rcases effect_output e ha I.writer I.loaded with ⟨hpcmd, ho⟩ | ⟨hacc, hpcmd, ho⟩
  · refine .inl ⟨hpcmd, ?_⟩
    rw [ho] at h'
    rw [State.debt, State.debt, hprog, hpcmd]
    omega
  · have hcmd : commandAt s.prog s.pcmd = .ok i := of_decide_eq_true (Bool.and_eq_true_iff.1 hacc).2
    obtain ⟨hlt, hget⟩ := List.getElem?_eq_some_iff.1 (commandAt_eq_ok.1 hcmd)
    have hdrop := List.drop_eq_getElem_cons hlt
    rw [hget] at hdrop
    refine .inr ⟨hacc, ?_⟩
    rw [ho, List.length_append] at h'
    rw [State.debt, State.debt, hprog, hpcmd, hdrop, List.map_cons, List.sum_cons, commandCost]
    omega

/-- An accepted command leaves the device alone and gives the Producer less work than the command counts. -/
theorem accept_phaseWork {s s' : State} {i : Instr} (hacc : s.accepts i = true) (h : exec i s = .next s')
    (htail : s.tail = false) : s'.pcmd = s.pcmd + 1 ∧ s'.wire = s.wire ∧ s'.txFifo = s.txFifo ∧ s'.owed = s.owed ∧
      s'.uartRIS = s.uartRIS ∧ s'.phaseWork < commandWork i := by
  have hcmd : commandAt s.prog s.pcmd = .ok i := of_decide_eq_true (Bool.and_eq_true_iff.1 hacc).2
  have hformat := commandAt_format hcmd
  cases i with
  | initAsync =>
    cases (execInitAsync_eq s hacc).symm.trans h
    refine ⟨rfl, rfl, rfl, rfl, rfl, ?_⟩
    rw [phaseWork_at (p := .initIfls) rfl]
    simp [htail, loadWork, commandWork]
  | enqueue m =>
    cases (execEnqueue_eq s hacc).symm.trans h
    refine ⟨rfl, rfl, rfl, rfl, rfl, ?_⟩
    rw [phaseWork_at (p := .wait) rfl]
    simp [loadWork, commandWork]
  | enqueueLine m =>
    cases (execEnqueueLine_eq s hacc).symm.trans h
    refine ⟨rfl, rfl, rfl, rfl, rfl, ?_⟩
    rw [phaseWork_at (p := .wait) rfl]
    simp [loadWork, commandWork]
  | _ => cases hformat

section Descends

variable {level : Nat} {s s' : State} {i : Instr}

/-- A command's acceptance is one of the steps it costs. -/
theorem accept_descends (I : s.OutputInv level) (ha : s.AgentMayRun i) (hacc : s.accepts i = true)
    (h : exec i s = .next s') : s'.measure < s.measure := by
  have hready := (Bool.and_eq_true_iff.1 hacc).1
  have htail : s.tail = false := I.no_tail (by simp [hready])
  obtain ⟨hpcmd, hw, hf, ho, hris, hwork⟩ := accept_phaseWork hacc h htail
  have htok := txTokens_congr hris ho
  rcases effect_debt (exec_effect h) ha I with ⟨hsame, -⟩ | ⟨-, hdebt⟩
  · omega
  · rw [hw, hf] at hdebt
    rw [State.measure, State.measure, hf, ho, htok]
    omega

theorem exec_debt_le (h : exec i s = .next s') (ha : s.AgentMayRun i) (I : s.OutputInv level) :
    s'.debt + 3 * (s'.wire.length + s'.txFifo.length) ≤ s.debt + 3 * (s.wire.length + s.txFifo.length) := by
  rcases effect_debt (exec_effect h) ha I with ⟨-, h⟩ | ⟨-, h⟩ <;> omega

/-- A micro-step that moves the Producer on and leaves the device alone. -/
theorem microStep_descends {p : Phase} (q : Phase) (h : exec i s = .next s') (ha : s.AgentMayRun i)
    (I : s.OutputInv level) (hp : s.atPhase p = true) (hq : s'.ph = q.code) (ht : s'.tail = s.tail)
    (hdev : s'.wire = s.wire ∧ s'.txFifo = s.txFifo ∧ s'.owed = s.owed ∧ s'.uartRIS = s.uartRIS)
    (hlt : loadWork (storedPart true s'.msg).length s'.i.toNat q < loadWork (storedPart true s.msg).length s.i.toNat p) :
    s'.measure < s.measure := by
  obtain ⟨hw, hf, ho, hris⟩ := hdev
  have hdebt := exec_debt_le h ha I
  rw [hw, hf] at hdebt
  rw [State.measure, State.measure, phaseWork_at hq, phaseWork_at ((atPhase_iff s p).1 hp), hf, ho, ht,
    txTokens_congr hris ho]
  omega

/-- The kick writes a byte, which owes a TX event, and ends the enqueue or begins the one of CR LF. -/
theorem kick_descends (h : exec .e7bKickWrite s = .next s') (ha : s.AgentMayRun .e7bKickWrite) (I : s.OutputInv level)
    (hp : s.atPhase .kickWrite = true) : s'.measure < s.measure := by
  have hdebt := exec_debt_le h ha I
  have hrun := (execE7bKickWrite_eq s hp).symm.trans h
  rw [writeDR_kick I.writer hp] at hrun
  have written : s'.wire = s.wire ∧ s'.txFifo = s.txFifo ++ [s.t] ∧ s'.owed = s.owed + 1 ∧ s'.uartRIS = s.uartRIS ∧
      s'.phaseWork < s.phaseWork := by
    rw [phaseWork_at ((atPhase_iff s .kickWrite).1 hp)]
    cases htail : s.tail <;> rw [htail] at hrun <;> cases hrun
    · refine ⟨rfl, rfl, rfl, rfl, ?_⟩
      rw [phaseWork_at (p := .ready) rfl]
      simp [loadWork]
    · refine ⟨rfl, rfl, rfl, rfl, ?_⟩
      rw [phaseWork_at (p := .wait) rfl]
      show (storedPart true crlf).length + 9 + 0 < 1 + 11
      rw [storedPart_crlf]
      decide
  obtain ⟨hw, hf, ho, hris, hwork⟩ := written
  obtain ⟨h0, hx⟩ := no_token_of_producerHolds I.writer (by rw [producerHolds_at hp]; rfl)
  have htok : s'.txTokens = s.txTokens + 1 := by
    rw [txTokens_clear ((txRIS_congr hris).trans hx), txTokens_clear hx, ho]
  rw [hw, hf, List.length_append, List.length_singleton] at hdebt
  rw [State.measure, State.measure, hf, ho, htok, List.length_append, List.length_singleton]
  omega

/-- Every micro-step of the Producer is one of those that its phase counts, but for a failing idle test. -/
theorem producer_descends {p : Phase} (h : exec i s = .next s') (ha : s.AgentMayRun i) (I : s.OutputInv level)
    (hi : i.phase = some p) (hp : s.ph = p.code) (hpass : p = .wait → s.byteAt 0 = sentinel) :
    s'.measure < s.measure := by
  have hat := (atPhase_iff s p).2 hp
  have stops := I.writer.window.stops
  cases i <;> cases hi
  case e1Wait =>
    have hrun := (execE1Wait_eq s hat).symm.trans h
    rw [if_pos (hpass rfl)] at hrun
    cases hrun
    exact microStep_descends .lock h ha I hat rfl rfl ⟨rfl, rfl, rfl, rfl⟩ (Nat.lt_succ_self _)
  case e2Lock =>
    cases (execE2Lock_eq s hat).symm.trans h
    exact microStep_descends .guard h ha I hat rfl rfl ⟨rfl, rfl, rfl, rfl⟩ (Nat.lt_succ_self _)
  case e3Guard =>
    cases (execE3Guard_eq s hat).symm.trans h
    exact microStep_descends .copy h ha I hat rfl rfl ⟨rfl, rfl, rfl, rfl⟩ (Nat.lt_succ_self _)
  case e4aCopy =>
    have hle := I.loaded.copied hat
    cases hc : s.copyContinues with
    | true =>
      have hlt := (copyContinues_iff stops hle).1 hc
      obtain ⟨-, hi1, -⟩ := copy_bound hc
      cases (execE4aCopy_copy s hat hc).symm.trans h
      refine microStep_descends .copy h ha I hat rfl rfl ⟨rfl, rfl, rfl, rfl⟩ ?_
      show (storedPart true s.msg).length - (s.i + 1).toNat + 6 < (storedPart true s.msg).length - s.i.toNat + 6
      omega
    | false =>
      cases (execE4aCopy_done s hat hc).symm.trans h
      exact microStep_descends .term h ha I hat rfl rfl ⟨rfl, rfl, rfl, rfl⟩
        (Nat.lt_of_lt_of_le (Nat.lt_succ_self 5) (Nat.le_add_left 6 _))
  case e4bTerm =>
    cases (execE4bTerm_eq s hat I.writer.window.buffer.index_bound).symm.trans h
    exact microStep_descends .cursor h ha I hat rfl rfl ⟨rfl, rfl, rfl, rfl⟩ (Nat.lt_succ_self 4)
  case e5Cursor =>
    cases (execE5Cursor_eq s hat).symm.trans h
    exact microStep_descends .unlock h ha I hat rfl rfl ⟨rfl, rfl, rfl, rfl⟩ (Nat.lt_succ_self 3)
  case e6Unlock =>
    cases (execE6Unlock_eq s hat).symm.trans h
    exact microStep_descends .kickRead h ha I hat rfl rfl ⟨rfl, rfl, rfl, rfl⟩ (Nat.lt_succ_self 2)
  case e7aKickRead =>
    cases (execE7aKickRead_eq s hat).symm.trans h
    exact microStep_descends .kickWrite h ha I hat rfl rfl ⟨rfl, rfl, rfl, rfl⟩ (Nat.lt_succ_self 1)
  case e7bKickWrite => exact kick_descends h ha I hat
  case i1InitIfls =>
    cases (execI1InitIfls_eq s hat).symm.trans h
    exact microStep_descends .initImsc h ha I hat rfl rfl ⟨rfl, rfl, rfl, rfl⟩ (Nat.lt_succ_self 2)
  case i2InitImsc =>
    cases (execI2InitImsc_eq s hat).symm.trans h
    exact microStep_descends .initLine h ha I hat rfl rfl ⟨rfl, rfl, rfl, rfl⟩ (Nat.lt_succ_self 1)
  case i3InitLine =>
    cases (execI3InitLine_eq s hat).symm.trans h
    exact microStep_descends .ready h ha I hat rfl rfl ⟨rfl, rfl, rfl, rfl⟩ Nat.zero_lt_one

/-- A step that leaves the Producer alone and brings the device and the Drain nearer to their end. -/
theorem device_descends {wire fifo owed tokens : Nat} (h : exec i s = .next s') (ha : s.AgentMayRun i)
    (I : s.OutputInv level) (hp : s'.ph = s.ph ∧ s'.msg = s.msg ∧ s'.i = s.i ∧ s'.tail = s.tail)
    (hw : s'.wire.length = wire) (hf : s'.txFifo.length = fifo) (ho : s'.owed = owed) (ht : s'.txTokens = tokens)
    (hlt : fifo + owed + tokens + 3 * (s.wire.length + s.txFifo.length) <
      s.txFifo.length + s.owed + s.txTokens + 3 * (wire + fifo)) : s'.measure < s.measure := by
  obtain ⟨hph, hm, hi, htail⟩ := hp
  have hdebt := exec_debt_le h ha I
  have hwork : s'.phaseWork = s.phaseWork := by simp only [State.phaseWork, hph, hm, hi, htail]
  rw [hw, hf] at hdebt
  rw [State.measure, State.measure, hwork, hf, ho, ht]
  omega

theorem drained_txRIS (s : State) : s.drained.txRIS = false := by
  rw [State.txRIS, drained_uartRIS, BitVec.getLsbD_and]
  simp

/-- SEND trades the pending cause for an owed event and a byte written; RETIRE uses the cause up. -/
theorem drain_descends (h : exec s.drainOutcome.instr s = .next s') (ha : s.AgentMayRun s.drainOutcome.instr)
    (I : s.OutputInv level) (hd : s.dispatchEnabled = true) : s'.measure < s.measure := by
  obtain ⟨-, h0, htok⟩ := drain_owns I.writer hd
  cases (exec_drainOutcome s).symm.trans h
  obtain ⟨hph, hm, hi, -, ht, -, -, -, hw, -⟩ := drained_frame s
  have hp : s.drained.ph = s.ph ∧ s.drained.msg = s.msg ∧ s.drained.i = s.i ∧ s.drained.tail = s.tail := ⟨hph, hm, hi, ht⟩
  have tokens := txTokens_clear (drained_txRIS s)
  cases ho : s.drainOutcome with
  | skip => exact absurd ((drainOutcome_skip s).1 ho) (by simp [not_locked_of_dispatch I.writer hd])
  | send =>
    have hs := drained_send ho
    rw [writeDR_send I.writer hd] at hs
    have hf : s.drained.txFifo.length = s.txFifo.length + 1 := by simp [hs]
    have howed : s.drained.owed = 1 := by simp [hs, h0]
    exact device_descends h ha I hp (congrArg List.length hw) hf howed (tokens.trans howed) (by omega)
  | retire =>
    have hf : s.drained.txFifo.length = s.txFifo.length := by simp [drained_retire ho]
    have howed : s.drained.owed = 0 := by simp [drained_retire ho, h0]
    exact device_descends h ha I hp (congrArg List.length hw) hf howed (tokens.trans howed) (by omega)

/-- A TX event makes the owed cause pending. -/
theorem txEvent_descends {trig : Nat} (h : exec .devTxEvent s = .next s') (ha : s.AgentMayRun .devTxEvent)
    (I : s.OutputInv level) (ht : s.txTrig = some trig) (he : s.txEventEnabled trig = true) : s'.measure < s.measure := by
  obtain ⟨h1, hx⟩ := token_of_owed I.writer (owed_pos_of_txEventEnabled I.writer.mode he)
  have htok := txTokens_clear hx
  cases (execDevTxEvent_eq s ht he).symm.trans h
  exact device_descends h ha I ⟨rfl, rfl, rfl, rfl⟩ rfl rfl rfl (txTokens_pending (txRIS_setTxRIS s))
    (show s.txFifo.length + (s.owed - 1) + (s.owed - 1 + 1) + 3 * (s.wire.length + s.txFifo.length) <
      s.txFifo.length + s.owed + s.txTokens + 3 * (s.wire.length + s.txFifo.length) by omega)

/-- SHIFT empties the FIFO by a byte. -/
theorem shift_descends (h : exec .devShift s = .next s') (ha : s.AgentMayRun .devShift) (I : s.OutputInv level)
    (he : s.shiftEnabled = true) : s'.measure < s.measure := by
  have hpos := txFifo_pos_of_shiftEnabled he
  cases (execDevShift_eq s he).symm.trans h
  exact device_descends h ha I ⟨rfl, rfl, rfl, rfl⟩ (wire := s.wire.length + 1) (fifo := s.txFifo.length - 1)
    (owed := s.owed) (tokens := s.txTokens) (by simp; omega) (by simp) rfl rfl (by omega)

end Descends

/-! ### Who moves next -/

/-- The agent whose step is certain to lower the measure: the device before the Drain, the Drain before the Host and the
Producer. -/
def State.mover (s : State) : AgentStep :=
  if s.txFifo ≠ [] then .shift
  else if 0 < s.owed then .txEvent
  else if s.txRIS then .drain
  else if s.atPhase .ready then .host
  else .producer

theorem mover_ne_rxEvent (s : State) : s.mover ≠ .rxEvent := by
  unfold State.mover
  repeat' split
  all_goals decide

theorem mover_congr (s : State) {turns : List Turn} {tick : Nat} {trace : List Byte} {ris : Word}
    (h : ris.getLsbD 5 = s.txRIS) :
    { s with turns := turns, tick := tick, trace := trace, uartRIS := ris }.mover = s.mover := by
  simp only [State.mover, State.txRIS, h]
  rfl

/-- The Producer moves next only where no TX event is owed or pending. -/
theorem tokens_of_mover_producer {s : State} (h : s.mover = .producer) : s.txTokens = 0 := by
  unfold State.mover at h
  split at h
  · cases h
  split at h
  · cases h
  next ho =>
  split at h
  · cases h
  next hx =>
  rw [txTokens_clear (Bool.not_eq_true _ ▸ hx)]
  omega

/-- Where no TX event is owed or pending and the Producer does not hold the right to write UARTDR, the buffer is empty. -/
theorem first_of_no_tokens {level : Nat} {s : State} (I : s.SingleWriterInv level) (hn : s.producerHolds = false)
    (ht : s.txTokens = 0) : s.byteAt 0 = sentinel := by
  by_contra h0
  have := I.tokens
  simp [ht, State.inDrain, hn, h0] at this

/-- So the Producer, if it moves next, passes the idle test. -/
theorem idle_of_mover_producer {level : Nat} {s : State} (I : s.SingleWriterInv level) (h : s.mover = .producer)
    (hp : s.ph = Phase.wait.code) : s.byteAt 0 = sentinel :=
  first_of_no_tokens I (producerHolds_at ((atPhase_iff s .wait).2 hp)) (tokens_of_mover_producer h)

end Sys2Proof.Machine
end

section
/-! PROOFS. Every turn under R183's premises: it lowers the measure or leaves it, one agent's is certain to lower it as long
as it is not 0, and at 0 the state is final, with the program's output on the wire. -/

namespace Sys2Proof.Machine

open Sys2Proof.Config

/-! ### A turn lowers the measure, or changes nothing that counts -/

theorem measure_passTurn (s : State) : s.passTurn.measure = s.measure := by
  rw [passTurn_eq]
  exact measure_congr s rfl

theorem mover_passTurn (s : State) : s.passTurn.mover = s.mover := by
  rw [passTurn_eq]
  exact mover_congr s rfl

theorem measure_ran (s : State) (i : Instr) : (s.passTurn.record i).measure = s.measure := by
  rw [ran_eq]
  exact measure_congr s rfl

theorem mover_ran (s : State) (i : Instr) : (s.passTurn.record i).mover = s.mover := by
  rw [ran_eq]
  exact mover_congr s rfl

/-- The turn has left the measure and the next mover, and was not the mover's. -/
def State.Stutters (a : AgentStep) (s s' : State) : Prop :=
  s'.measure = s.measure ∧ s'.mover = s.mover ∧ s.mover ≠ a

/-- The operation that an agent's turn runs lowers the measure, but for a failing idle test and receive traffic. -/
theorem run_descends {level : Nat} {s u s' : State} {i : Instr} {a : AgentStep} (I : s.OutputInv level)
    (ht : s.turn = .agent a) (hf : fetch s.turn s = .run i) (hu : u = s.passTurn.record i) (h : exec i u = .next s') :
    s'.measure < u.measure ∨ u.Stutters a s' := by
  have ha : u.AgentMayRun i := hu ▸ agentMayRun_ran (agentMayRun_of_fetch (ht ▸ rfl) hf)
  have J : u.OutputInv level := hu ▸ outputInv_ran I i
  rcases fetch_run hf with
    ⟨-, hr, hcmd⟩ | ⟨hturn, p, hi, hp⟩ | ⟨-, hd, hi⟩ | ⟨-, rfl, trig, htrig, he⟩ | ⟨-, rfl, he⟩ | ⟨hturn, rfl, he⟩ | ⟨-, hw⟩
  · refine .inl (accept_descends J ha ?_ h)
    exact accepts_of_ready (by simpa [hu] using (atPhase_iff s .ready).1 hr) (by simpa [hu] using hcmd)
  · replace hp : u.ph = p.code := by simpa [hu] using hp
    by_cases hspin : p = .wait ∧ u.byteAt 0 ≠ sentinel
    · obtain ⟨rfl, h0⟩ := hspin
      cases microStep_of_phase hi
      obtain rfl := effect_idleTest_fails (exec_effect h) hp h0
      obtain rfl : a = .producer := by simpa [ht] using hturn
      exact .inr ⟨rfl, rfl, fun hm => h0 (idle_of_mover_producer J.writer hm hp)⟩
    · exact .inl (producer_descends h ha J hi hp fun hwait => by_contra fun h0 => hspin ⟨hwait, h0⟩)
  · obtain rfl : i = u.drainOutcome.instr := by rw [hi, hu, drainOutcome_ran]
    exact .inl (drain_descends h ha J (ha.2 (by cases u.drainOutcome <;> simp [DrainOutcome.instr])))
  · exact .inl (txEvent_descends h ha J (by simpa [hu, State.txTrig] using htrig)
      (by simpa [hu, State.txEventEnabled] using he))
  · exact .inl (shift_descends h ha J (by simpa [hu, State.shiftEnabled, State.uartEn, State.txEn] using he))
  · obtain rfl : a = .rxEvent := by simpa [ht] using hturn
    cases (execHostRxEvent_eq u (by simpa [hu] using he)).symm.trans h
    exact .inr ⟨measure_congr u (txRIS_setRxRIS u), mover_congr u (txRIS_setRxRIS u), mover_ne_rxEvent u⟩
  · exact absurd hw ha.1

/-! ### There is a mover -/

section Mover

variable {prog : List Byte} {s : State}

theorem enabled_of_fetchTurn {a : AgentStep} {i : Instr} (hu : s.uartInitialised = true)
    (h : fetchTurn (.agent a) s = .run i) : s.enabled a = true :=
  enabled_of_fetch_run ((fetch_initialised hu _).trans h)

theorem shift_enabled (hu : s.uartInitialised = true) (hf : s.txFifo ≠ []) : s.enabled .shift = true := by
  simp only [State.uartInitialised, Bool.and_eq_true] at hu
  obtain ⟨⟨-, hen⟩, htx⟩ := id hu
  have hs : s.shiftEnabled = true := by simp [State.shiftEnabled, hf, hen, htx]
  exact enabled_of_fetchTurn (by simp [State.uartInitialised, hu]) (if_pos hs)

/-- An empty FIFO is at every trigger level. -/
theorem txEvent_enabled (I : s.RunInv prog) (hf : s.txFifo = []) (ho : 0 < s.owed) : s.enabled .txEvent = true := by
  obtain ⟨n, hn, -⟩ := I.output.writer.trigger
  have he : s.txEventEnabled n = true := (txEventEnabled_iff s n).2 ⟨by simp [hf], fun _ => ho⟩
  exact enabled_of_fetchTurn I.initialised (fetchTxEvent_enabled hn he)

/-- A pending transmit cause is the Drain's, and the interrupt is armed for it. -/
theorem drain_enabled (I : s.RunInv prog) (hx : s.txRIS = true) : s.enabled .drain = true := by
  have hfirst : s.byteAt 0 ≠ sentinel := fun h0 => by
    have := I.output.writer.tokens
    simp [txTokens_pending hx, State.inDrain, h0] at this
  rcases I.line with ⟨hl, hm⟩ | A
  · have hd : s.dispatchEnabled = true :=
      (dispatchEnabled_iff s).2 ⟨hl, I.irq, .inl ⟨hx, by rw [hm]; decide⟩⟩
    exact enabled_of_fetchTurn I.initialised (fetchDrain_dispatch hd)
  · exact absurd A.first hfirst

/-- At READY with a command left, the Host accepts it. -/
theorem host_enabled (hu : s.uartInitialised = true) (hr : s.atPhase .ready = true)
    (hlt : s.pcmd < (decodeStream s.prog).1.length) : s.enabled .host = true :=
  enabled_of_fetchTurn hu (fetchHost_ready hr (commandAt_eq_ok.2 (List.getElem?_eq_getElem hlt)))

/-- At any other phase the Producer takes its micro-step. -/
theorem producer_enabled (I : s.RunInv prog) (hr : s.atPhase .ready = false) : s.enabled .producer = true := by
  obtain ⟨p, hp⟩ := Option.isSome_iff_exists.1 I.output.known_phase
  have hne : p ≠ .ready := by
    rintro rfl
    simp [(atPhase_iff s .ready).2 (ofCode_eq_some hp)] at hr
  obtain ⟨i, hi⟩ : ∃ i, p.microStep = some i := by
    cases p
    case ready => exact absurd rfl hne
    all_goals exact ⟨_, rfl⟩
  have hd : decodePhase s.ph = .ok i := by simp only [decodePhase, hp, hi]
  have hf : fetchProducer s = .run i := by simp only [fetchProducer, hd]
  exact enabled_of_fetchTurn I.initialised hf

/-- With every command accepted, the Producer READY and the device at rest, no step is left. -/
theorem measure_at_rest (I : s.RunInv prog) (hf : s.txFifo = []) (ht : s.txTokens = 0) (hr : s.atPhase .ready = true)
    (hc : (decodeStream s.prog).1.length ≤ s.pcmd) : s.measure = 0 := by
  have hp := (atPhase_iff s .ready).1 hr
  have h0 := first_of_no_tokens I.output.writer (producerHolds_at hr) ht
  have howed : s.owed = 0 := by simp only [State.txTokens] at ht; omega
  have hdebt : s.debt = 0 := by
    rw [State.debt, undelivered_free hp (by decide), State.bufferRest, if_pos h0, List.drop_eq_nil_of_le hc]
    rfl
  have hwork : s.phaseWork = 0 := by
    rw [phaseWork_at hp, I.output.no_tail (by simp [hr])]
    rfl
  rw [State.measure, hdebt, hwork, hf, howed, ht]
  rfl

/-- As long as a step is left, the mover's is enabled. -/
theorem mover_fairEnabled (I : s.RunInv prog) (h : s.measure ≠ 0) : s.fairEnabled s.mover = true := by
  have fair : ∀ {a}, s.enabled a = true → a ≠ .rxEvent → a ≠ .txEvent → s.fairEnabled a = true := fun he hr ht => by
    simp [State.fairEnabled, he, hr, ht]
  unfold State.mover
  split
  · next hf => exact fair (shift_enabled I.initialised hf) (by decide) (by decide)
  next hf =>
  have hf : s.txFifo = [] := not_not.1 hf
  split
  · next ho => simp [State.fairEnabled, txEvent_enabled I hf ho, ho]
  next ho =>
  split
  · next hx => exact fair (drain_enabled I hx) (by decide) (by decide)
  next hx =>
  have ht : s.txTokens = 0 := (txTokens_clear (Bool.not_eq_true _ ▸ hx)).trans (Nat.eq_zero_of_not_pos ho)
  split
  · next hr =>
    refine fair (host_enabled I.initialised hr (Nat.lt_of_not_le fun hle => h ?_)) (by decide) (by decide)
    exact measure_at_rest I hf ht hr hle
  · next hr => exact fair (producer_enabled I (Bool.not_eq_true _ ▸ hr)) (by decide) (by decide)

/-- An agent's turn lowers the measure, or leaves it and the next mover, and then was not the mover's. -/
theorem turn_descends {s' : State} {a : AgentStep} (I : s.RunInv prog) (ht : s.turn = .agent a) (h : step s = .next s') :
    s'.measure < s.measure ∨ s'.measure = s.measure ∧ s'.mover = s.mover ∧ (s.measure ≠ 0 → s.mover ≠ a) := by
  cases he : s.enabled a with
  | true =>
    obtain ⟨i, hf⟩ := enabled_iff.1 he
    rw [← ht] at hf
    rcases run_descends I.output ht hf rfl (exec_of_step h hf) with hlt | ⟨hms, hmv, hne⟩
    · exact .inl (measure_ran s i ▸ hlt)
    · exact .inr ⟨hms.trans (measure_ran s i), hmv.trans (mover_ran s i), fun _ => mover_ran s i ▸ hne⟩
  | false =>
    obtain ⟨u, hu, hmarks, -⟩ := step_disabled ht he
    cases h.symm.trans hu
    have hms : s'.measure = s.passTurn.measure := (congrArg State.measure hmarks :)
    have hmv : s'.mover = s.passTurn.mover := (congrArg State.mover hmarks :)
    refine .inr ⟨hms.trans (measure_passTurn s), hmv.trans (mover_passTurn s), fun h0 hma => ?_⟩
    have hfair := mover_fairEnabled I h0
    simp [hma, State.fairEnabled, he] at hfair

/-! ### The final state -/

theorem pcmd_of_debt {level : Nat} (I : s.OutputInv level) (h : s.debt = 0) :
    s.pcmd = (decodeStream s.prog).1.length := by
  refine Nat.le_antisymm I.accepted (Nat.le_of_not_lt fun hlt => ?_)
  have hcmd := commandAt_eq_ok.2 (List.getElem?_eq_getElem hlt)
  have hpos := commandCost_pos (commandAt_format hcmd)
  rw [State.debt, List.drop_eq_getElem_cons hlt, List.map_cons, List.sum_cons] at h
  omega

theorem ready_of_phaseWork {level : Nat} (I : s.OutputInv level) (h : s.phaseWork = 0) : s.atPhase .ready = true := by
  obtain ⟨p, hp⟩ := Option.isSome_iff_exists.1 I.known_phase
  have hph := ofCode_eq_some hp
  rw [phaseWork_at hph] at h
  cases p
  case ready => exact (atPhase_iff s .ready).2 hph
  all_goals simp [loadWork] at h

/-- A state with no step left is final. -/
theorem final_of_measure (hc : Complete prog) (I : s.RunInv prog) (h : s.measure = 0) : s.final = true := by
  simp only [State.measure, Nat.add_eq_zero_iff, List.length_eq_zero_iff] at h
  obtain ⟨⟨⟨⟨hdebt, hwork⟩, hf⟩, ho⟩, ht⟩ := h
  have hr := ready_of_phaseWork I.output hwork
  have h0 := first_of_no_tokens I.output.writer (producerHolds_at hr) ht
  have hidle : s.bufferPhase = .idle := by
    have hna : s.bufferPhase ≠ .armed :=
      (bufferPhase_ne_armed s).2 (armed_at ((atPhase_iff s .ready).1 hr))
    by_contra hni
    exact I.empty ((bufferPhase_draining s).2 ⟨hna, hni⟩) h0
  have hx : s.txRIS = false := Bool.eq_false_iff.2 fun hx => by simp [txTokens_pending hx] at ht
  simp [State.final, I.prog_eq ▸ hc.ends, pcmd_of_debt I.output hdebt, hr, hidle, hf, ho, hx, I.unmarked]

/-- In a final state nothing is left but the wire. -/
theorem wire_of_final {level : Nat} (I : s.OutputInv level) (h : s.final = true) :
    s.wire = (decodeStream s.prog).1.flatMap (payload true) := by
  simp only [State.final, Bool.and_eq_true, decide_eq_true_eq, List.isEmpty_iff] at h
  obtain ⟨⟨⟨⟨⟨⟨⟨-, hpcmd⟩, hr⟩, hidle⟩, hf⟩, -⟩, -⟩, -⟩ := h
  have h0 := ((bufferPhase_idle s).1 hidle).2.1
  have hout := I.output
  rw [undelivered_free ((atPhase_iff s .ready).1 hr) (by decide), State.bufferRest, if_pos h0, hf, hpcmd, programOutput,
    List.take_length] at hout
  simpa using hout

end Mover

end Sys2Proof.Machine
end

section
/-! PROOFS. Every program is sent out (R183): a fair schedule, finite or not, takes the measure to 0, and in a final state the
wire is the program's output. -/

namespace Sys2Proof.Machine

open Sys2Proof.Config

/-! ### Finite runs -/

theorem steps_add (a b : Nat) (s : State) : steps (a + b) s = thenDo (steps a s) (steps b) := by
  induction a generalizing s with
  | zero => rw [Nat.zero_add, steps, thenDo_next]
  | succ a ih =>
    rw [Nat.succ_add, steps, steps]
    cases step s with
    | next u => exact ih u
    | fault e => rfl
    | refused e => rfl

theorem steps_trans {a b : Nat} {s t u : State} (ha : steps a s = .next t) (hb : steps b t = .next u) :
    steps (a + b) s = .next u := by
  rw [steps_add, ha, thenDo_next, hb]

theorem steps_succ {n : Nat} {s t u : State} (hs : step s = .next t) (hn : steps n t = .next u) :
    steps (n + 1) s = .next u := by
  rw [steps, hs, thenDo_next, hn]

/-- The output stays exact along a run of any length. -/
theorem steps_outputInv {level : Nat} (n : Nat) {s t : State} (I : s.OutputInv level) (h : steps n s = .next t) :
    t.OutputInv level ∧ t.prog = s.prog := by
  induction n generalizing s with
  | zero => cases h; exact ⟨I, rfl⟩
  | succ n ih =>
    obtain ⟨u, hu, J, -⟩ := outputIsExactAtEveryStep level s I
    rw [steps, hu, thenDo_next] at h
    obtain ⟨K, hprog⟩ := ih J h
    exact ⟨K, hprog.trans (launchStateNeverChanges s u hu).2.1⟩

theorem step_turns {s s' : State} (h : step s = .next s') : s'.turns = s.passTurn.turns := by
  rcases step_marks_or_effect h with ⟨fs, rs, rfl, -⟩ | ⟨i, -, e⟩
  · rfl
  · rw [effect_turns e, record_turns]

/-- A piece of schedule does not raise the measure, and lowers it where the mover has a turn. -/
theorem turns_descend {prog : List Byte} (hc : Complete prog) {turns rest : List Turn} {s : State} (I : s.RunInv prog)
    (ht : s.turns = turns ++ rest) : ∃ t, steps turns.length s = .next t ∧ t.RunInv prog ∧ t.turns = rest ∧
      t.measure ≤ s.measure ∧ (.agent s.mover ∈ turns → s.measure ≠ 0 → t.measure < s.measure) := by
  induction turns generalizing s with
  | nil => exact ⟨s, rfl, I, ht, Nat.le_refl _, fun h => absurd h List.not_mem_nil⟩
  | cons turn turns ih =>
    have hturn : s.turn = turn := by simp [State.turn, ht]
    obtain ⟨a, rfl⟩ : ∃ a, turn = .agent a := by
      have hagent := (agent_turn I.output.writer.agents).1
      rw [hturn] at hagent
      cases turn with
      | agent a => exact ⟨a, rfl⟩
      | bus _ _ _ => cases hagent
      | secondProducer => cases hagent
    obtain ⟨u, hu, J⟩ := step_runInv hc I
    have hrest : u.turns = turns ++ rest := by
      rw [step_turns hu]
      simp [State.passTurn, ht]
    obtain ⟨t, hsteps, K, htt, hle, hmem⟩ := ih J hrest
    refine ⟨t, steps_succ hu hsteps, K, htt, ?_⟩
    rcases turn_descends I hturn hu with hlt | ⟨hms, hmv, hne⟩
    · exact ⟨by omega, fun _ _ => by omega⟩
    · refine ⟨hms ▸ hle, fun hin h0 => hms ▸ hmem ?_ (hms ▸ h0)⟩
      rw [hmv]
      exact (List.mem_cons.1 hin).resolve_left fun he => hne h0 (Turn.agent.inj he)

theorem mover_mem_of_fairRound {round : List Turn} (h : fairRound round = true) (s : State) :
    .agent s.mover ∈ round := by
  have hall := (Bool.and_eq_true_iff.1 h).2
  have hm : s.mover ∈ [AgentStep.host, .producer, .drain, .txEvent, .shift] := by
    have := mover_ne_rxEvent s
    revert this
    cases s.mover <;> simp
  exact List.contains_iff_mem.1 (List.all_eq_true.1 hall _ hm)

/-- Each fair round takes at least one step of those that are left. -/
theorem rounds_descend {prog : List Byte} (hc : Complete prog) {rounds : List (List Turn)} {s : State} (I : s.RunInv prog)
    (hfair : ∀ round ∈ rounds, fairRound round = true) (ht : s.turns = rounds.flatten) :
    ∃ t, steps rounds.flatten.length s = .next t ∧ t.RunInv prog ∧ t.measure ≤ s.measure - rounds.length := by
  induction rounds generalizing s with
  | nil => exact ⟨s, rfl, I, Nat.le_refl _⟩
  | cons round rounds ih =>
    obtain ⟨hround, hrounds⟩ := List.forall_mem_cons.1 hfair
    obtain ⟨u, hu, J, hturns, hle, hlt⟩ := turns_descend hc I ht
    obtain ⟨t, hsteps, K, hms⟩ := ih J hrounds hturns
    refine ⟨t, ?_, K, ?_⟩
    · rw [List.flatten_cons, List.length_append]
      exact steps_trans hu hsteps
    · have := hlt (mover_mem_of_fairRound hround s)
      rw [List.length_cons]
      omega

/-- What a launch state still has to do is what its commands cost. -/
theorem measure_launched {s : State} (h : s.Launched) : s.measure ≤ 279 * (decodeStream s.prog).1.length := by
  have hdebt : s.debt = ((decodeStream s.prog).1.map commandCost).sum := by
    rw [State.debt, launched_undelivered h, h.pcmd, List.drop_zero, List.length_nil, Nat.zero_add]
  have hwork : s.phaseWork = 0 := by
    rw [phaseWork_at h.ph, h.tail]
    rfl
  have hx : s.txRIS = false := by simp [State.txRIS, h.uartRIS]
  rw [State.measure, hdebt, hwork, h.txFifo, h.owed, txTokens_clear hx, h.owed]
  exact sum_commandCost_le _

/-- Settles O59: the rounds are at least as many as the steps to take. -/
theorem fairRoundsReachAFinalState : Obligations.FairRoundsReachAFinalState := by
  intro rounds s h hs hm hq hp hend hfirst hfair hlen hturns
  have hc : Complete s.prog := ⟨hend, hfirst⟩
  have hagents : s.onlyAgents = true := by
    rw [State.onlyAgents, hturns, List.all_flatten]
    exact List.all_eq_true.2 fun round hr => (Bool.and_eq_true_iff.1 (hfair round hr)).1
  obtain ⟨t, hsteps, I, hms⟩ := rounds_descend hc (runInv_launched h hs hm hagents hq hp) hfair hturns
  have hbound := measure_launched h
  have hfinal := final_of_measure hc I (by omega)
  exact ⟨t, hsteps, hfinal, I.prog_eq ▸ wire_of_final I.output hfinal⟩

/-! ### Infinite runs -/

/-- Who has the next turn is no part of the invariant. -/
theorem runInv_giveTurn {prog : List Byte} {s : State} (I : s.RunInv prog) (a : AgentStep) : (s.giveTurn a).RunInv prog :=
  ⟨outputInv_schedule I.output rfl s.tick s.trace s.refusals, I.prog_eq, I.initialised, I.irq,
    I.line.elim (fun L : s.LineOn => .inl L) fun A => .inr (arming_congr A rfl rfl rfl (.inl rfl)), I.empty, I.unmarked⟩

theorem launched_giveTurn {s : State} (h : s.Launched) (a : AgentStep) : (s.giveTurn a).Launched :=
  ⟨h.bytes_wf, h.bytes_zero, h.cursor, h.locked, h.msg, h.i, h.t, h.tail, h.ph, h.pcmd, h.txFifo, h.wire, h.owed,
    h.uartRIS, h.uartIMSC, h.uartIFLS, h.uartCR, h.uartLCRH, h.lineEn, h.cpuIrqEn, h.faults, h.refusals, h.trace⟩

section Run

variable {prog : List Byte} {sched : Nat → AgentStep} {r : Nat → State}

/-- Throughout a run of agents' turns the invariant holds, whoever has the next turn. -/
theorem run_runInv (hc : Complete prog) (hr : IsRun sched r) (h0 : ∀ a, ((r 0).giveTurn a).RunInv prog) (n : Nat)
    (a : AgentStep) : ((r n).giveTurn a).RunInv prog :=
  run_invariant (P := fun s => ∀ a, (s.giveTurn a).RunInv prog) hr h0 (fun b s s' hs h a => by
    obtain ⟨u, hu, J⟩ := step_runInv hc (hs b)
    cases h.symm.trans hu
    exact runInv_giveTurn J a) n a

theorem run_descends_or_stutters (hr : IsRun sched r) (hinv : ∀ n a, ((r n).giveTurn a).RunInv prog) (n : Nat) :
    (r (n + 1)).measure < (r n).measure ∨ (r (n + 1)).measure = (r n).measure ∧ (r (n + 1)).mover = (r n).mover ∧
      ((r n).measure ≠ 0 → (r n).mover ≠ sched n) :=
  turn_descends (s := (r n).giveTurn (sched n)) (hinv n (sched n)) rfl (hr n)

/-- A weakly fair run lowers the measure again and again: a measure that stayed would leave the mover's step enabled and
never taken. -/
theorem run_lowers (hr : IsRun sched r) (hfair : WeaklyFair sched r) (hinv : ∀ n a, ((r n).giveTurn a).RunInv prog)
    (n : Nat) (h0 : (r n).measure ≠ 0) : ∃ m, (r m).measure < (r n).measure := by
  by_contra hno
  have hge : ∀ m, (r n).measure ≤ (r m).measure := fun m => Nat.le_of_not_lt fun hlt => hno ⟨m, hlt⟩
  have stays : ∀ k, (r (n + k)).measure = (r n).measure ∧ (r (n + k)).mover = (r n).mover := by
    intro k
    induction k with
    | zero => exact ⟨rfl, rfl⟩
    | succ k ih =>
      obtain ⟨hms, hmv⟩ := ih
      rcases run_descends_or_stutters hr hinv (n + k) with hlt | ⟨hms', hmv', -⟩
      · exact absurd (hge (n + k + 1)) (by omega)
      · exact ⟨hms'.trans hms, hmv'.trans hmv⟩
  have enabled : ∀ m, n ≤ m → (r m).fairEnabled (r n).mover = true := fun m hm => by
    obtain ⟨k, rfl⟩ := Nat.exists_eq_add_of_le hm
    obtain ⟨hms, hmv⟩ := stays k
    have hf := mover_fairEnabled (hinv (n + k) .host) (show (r (n + k)).measure ≠ 0 from hms ▸ h0)
    rw [fairEnabled_giveTurn] at hf
    exact hmv ▸ hf
  obtain ⟨m, hm, hsched⟩ := hfair _ n enabled
  obtain ⟨k, rfl⟩ := Nat.exists_eq_add_of_le hm
  obtain ⟨hms, hmv⟩ := stays k
  rcases run_descends_or_stutters hr hinv (n + k) with hlt | ⟨-, -, hne⟩
  · exact absurd (hge (n + k + 1)) (by omega)
  · exact hne (hms ▸ h0) (hmv.trans hsched.symm)

theorem run_ends (hr : IsRun sched r) (hfair : WeaklyFair sched r) (hinv : ∀ n a, ((r n).giveTurn a).RunInv prog) :
    ∃ n, (r n).measure = 0 := by
  have ends : ∀ k n, (r n).measure ≤ k → ∃ m, (r m).measure = 0 := by
    intro k
    induction k with
    | zero => exact fun n h => ⟨n, Nat.le_zero.1 h⟩
    | succ k ih =>
      intro n h
      by_cases h0 : (r n).measure = 0
      · exact ⟨n, h0⟩
      · obtain ⟨m, hm⟩ := run_lowers hr hfair hinv n h0
        exact ih m (by omega)
  exact ends _ 0 (Nat.le_refl _)

end Run

/-- Settles O58: a weakly fair run comes to measure 0, and the wire of any final state is what the exact output leaves to
it. -/
theorem finalWireIsTheProgramsOutput : Obligations.FinalWireIsTheProgramsOutput := by
  refine ⟨fun sched r hr hfair h hs hm hq hp hend hfirst => ?_, fun n s t h hs hm ha hq hp hsteps hfinal => ?_⟩
  · have hc : Complete (r 0).prog := ⟨hend, hfirst⟩
    have hinv := run_runInv hc hr fun a => runInv_launched (launched_giveTurn h a) hs hm rfl hq hp
    obtain ⟨n, hn⟩ := run_ends hr hfair hinv
    have I := hinv n .host
    have hfinal : ((r n).giveTurn .host).final = true := final_of_measure hc I hn
    have hwire := wire_of_final I.output hfinal
    rw [I.prog_eq] at hwire
    exact ⟨n, hfinal, ((unmarked_iff _).1 I.unmarked).1, hwire⟩
  · obtain ⟨I, hprog⟩ := steps_outputInv n (launched_outputInv h hs hm ha hq hp) hsteps
    exact hprog ▸ wire_of_final I hfinal

end Sys2Proof.Machine
end
